-- ==== Sys2Proof/Word.lean ====
section
/-!
DEFINITION. The machine's words (00_scope.md R7): the byte is 8 bits, the registers and the program
counter are 16 bits, an effective address is 24 bits (bank : 16-bit offset).
-/

namespace Sys2Proof

/-- A byte: the width of memory, of the data bus, of DBR, PBR and P. -/
abbrev Byte := BitVec 8

/-- The width of C, X, Y, S, D and PC. -/
abbrev Word := BitVec 16

/-- An effective address, `bank : offset` (20_memory.md R60). -/
abbrev Addr := BitVec 24

end Sys2Proof
end

