-- ==== Sys2Proof/Syntax.lean ====
section
/-!
DEFINITION. The instructions, one constructor for each of the 256 opcodes of the opcode map
(30_encoding.md R94, R95), each with the operand bytes its format gives it (R91, R92). A
constructor is named after its mnemonic and its addressing mode (R96): `ldaAbsX` is `LDA a,x`.
-/

namespace Sys2Proof

/-- An immediate operand of format IMM_M or IMM_X: one byte or two (R91, R93). Which of the two it
is was decided by P.M or P.X when the instruction was decoded, and fixes the instruction's length. -/
inductive Imm where
  /-- The one-byte form, `idl`. -/
  | byte (b : Byte)
  /-- The two-byte form, `idh : idl`. -/
  | word (w : Word)
deriving DecidableEq, Repr

/-- The 24 addressing modes, numbered 1 to 24 by R96 in this order; and `unnamed`, where the opcode matrix
prints none. -/
inductive Mode where
  /-- `#`. -/
  | imm
  /-- `a`. -/
  | abs
  /-- `al`. -/
  | long
  /-- `d`. -/
  | dir
  /-- `A`. -/
  | acc
  /-- `i`. -/
  | imp
  /-- `(d),y`. -/
  | dirIndY
  /-- `[d],y`. -/
  | dirLongY
  /-- `(d,x)`. -/
  | dirXInd
  /-- `d,x`. -/
  | dirX
  /-- `d,y`. -/
  | dirY
  /-- `a,x`. -/
  | absX
  /-- `al,x`. -/
  | longX
  /-- `a,y`. -/
  | absY
  /-- `r`. -/
  | rel
  /-- `rl`. -/
  | relLong
  /-- `(a)`. -/
  | absInd
  /-- `(d)`. -/
  | dirInd
  /-- `[d]`. -/
  | dirLong
  /-- `(a,x)`. -/
  | absXInd
  /-- `s`. -/
  | stack
  /-- `d,s`. -/
  | stk
  /-- `(d,s),y`. -/
  | stkIndY
  /-- `xyc`. -/
  | blockMove
  /-- No mode symbol: the cell 42, WDM (R94). -/
  | unnamed
deriving DecidableEq, Repr

/-- The instructions: those with operand bytes in the order of their opcodes, then the one-byte ones.
Each docstring names the opcode, the instruction's rule and its mode's rule. -/
inductive Instr where
  /-- BRK s (00): R360, R139. -/
  | brk (sig : Byte)
  /-- ORA (d,x) (01): R186, R130. -/
  | oraDirXInd (off : Byte)
  /-- COP s (02): R361, R139. -/
  | cop (sig : Byte)
  /-- ORA d,s (03): R186, R140. -/
  | oraStk (off : Byte)
  /-- TSB d (04): R201, R123. -/
  | tsbDir (off : Byte)
  /-- ORA d (05): R186, R123. -/
  | oraDir (off : Byte)
  /-- ASL d (06): R197, R123. -/
  | aslDir (off : Byte)
  /-- ORA [d] (07): R186, R133. -/
  | oraDirLong (off : Byte)
  /-- ORA # (09): R186, R121. -/
  | oraImm (v : Imm)
  /-- TSB a (0C): R201, R125. -/
  | tsbAbs (a : Word)
  /-- ORA a (0D): R186, R125. -/
  | oraAbs (a : Word)
  /-- ASL a (0E): R197, R125. -/
  | aslAbs (a : Word)
  /-- ORA al (0F): R186, R126. -/
  | oraLong (a : Addr)
  /-- BPL r (10): R296, R135. -/
  | bpl (disp : Byte)
  /-- ORA (d),y (11): R186, R131. -/
  | oraDirIndY (off : Byte)
  /-- ORA (d) (12): R186, R132. -/
  | oraDirInd (off : Byte)
  /-- ORA (d,s),y (13): R186, R141. -/
  | oraStkIndY (off : Byte)
  /-- TRB d (14): R202, R123. -/
  | trbDir (off : Byte)
  /-- ORA d,x (15): R186, R124. -/
  | oraDirX (off : Byte)
  /-- ASL d,x (16): R197, R124. -/
  | aslDirX (off : Byte)
  /-- ORA [d],y (17): R186, R133. -/
  | oraDirLongY (off : Byte)
  /-- ORA a,y (19): R186, R129. -/
  | oraAbsY (a : Word)
  /-- TRB a (1C): R202, R125. -/
  | trbAbs (a : Word)
  /-- ORA a,x (1D): R186, R129. -/
  | oraAbsX (a : Word)
  /-- ASL a,x (1E): R197, R129. -/
  | aslAbsX (a : Word)
  /-- ORA al,x (1F): R186, R134. -/
  | oraLongX (a : Addr)
  /-- JSR a (20): R306, R125. -/
  | jsrAbs (a : Word)
  /-- AND (d,x) (21): R184, R130. -/
  | andDirXInd (off : Byte)
  /-- JSL al (22): R308, R126. -/
  | jslLong (a : Addr)
  /-- AND d,s (23): R184, R140. -/
  | andStk (off : Byte)
  /-- BIT d (24): R190, R123. -/
  | bitDir (off : Byte)
  /-- AND d (25): R184, R123. -/
  | andDir (off : Byte)
  /-- ROL d (26): R199, R123. -/
  | rolDir (off : Byte)
  /-- AND [d] (27): R184, R133. -/
  | andDirLong (off : Byte)
  /-- AND # (29): R184, R121. -/
  | andImm (v : Imm)
  /-- BIT a (2C): R190, R125. -/
  | bitAbs (a : Word)
  /-- AND a (2D): R184, R125. -/
  | andAbs (a : Word)
  /-- ROL a (2E): R199, R125. -/
  | rolAbs (a : Word)
  /-- AND al (2F): R184, R126. -/
  | andLong (a : Addr)
  /-- BMI r (30): R294, R135. -/
  | bmi (disp : Byte)
  /-- AND (d),y (31): R184, R131. -/
  | andDirIndY (off : Byte)
  /-- AND (d) (32): R184, R132. -/
  | andDirInd (off : Byte)
  /-- AND (d,s),y (33): R184, R141. -/
  | andStkIndY (off : Byte)
  /-- BIT d,x (34): R190, R124. -/
  | bitDirX (off : Byte)
  /-- AND d,x (35): R184, R124. -/
  | andDirX (off : Byte)
  /-- ROL d,x (36): R199, R124. -/
  | rolDirX (off : Byte)
  /-- AND [d],y (37): R184, R133. -/
  | andDirLongY (off : Byte)
  /-- AND a,y (39): R184, R129. -/
  | andAbsY (a : Word)
  /-- BIT a,x (3C): R190, R129. -/
  | bitAbsX (a : Word)
  /-- AND a,x (3D): R184, R129. -/
  | andAbsX (a : Word)
  /-- ROL a,x (3E): R199, R129. -/
  | rolAbsX (a : Word)
  /-- AND al,x (3F): R184, R134. -/
  | andLongX (a : Addr)
  /-- EOR (d,x) (41): R185, R130. -/
  | eorDirXInd (off : Byte)
  /-- WDM (42): R366, R97; the matrix prints no mode. -/
  | wdm (ignored : Byte)
  /-- EOR d,s (43): R185, R140. -/
  | eorStk (off : Byte)
  /-- MVP xyc (44): R352, R142. -/
  | mvp (dst : Byte) (src : Byte)
  /-- EOR d (45): R185, R123. -/
  | eorDir (off : Byte)
  /-- LSR d (46): R198, R123. -/
  | lsrDir (off : Byte)
  /-- EOR [d] (47): R185, R133. -/
  | eorDirLong (off : Byte)
  /-- EOR # (49): R185, R121. -/
  | eorImm (v : Imm)
  /-- JMP a (4C): R301, R125. -/
  | jmpAbs (a : Word)
  /-- EOR a (4D): R185, R125. -/
  | eorAbs (a : Word)
  /-- LSR a (4E): R198, R125. -/
  | lsrAbs (a : Word)
  /-- EOR al (4F): R185, R126. -/
  | eorLong (a : Addr)
  /-- BVC r (50): R297, R135. -/
  | bvc (disp : Byte)
  /-- EOR (d),y (51): R185, R131. -/
  | eorDirIndY (off : Byte)
  /-- EOR (d) (52): R185, R132. -/
  | eorDirInd (off : Byte)
  /-- EOR (d,s),y (53): R185, R141. -/
  | eorStkIndY (off : Byte)
  /-- MVN xyc (54): R351, R142. -/
  | mvn (dst : Byte) (src : Byte)
  /-- EOR d,x (55): R185, R124. -/
  | eorDirX (off : Byte)
  /-- LSR d,x (56): R198, R124. -/
  | lsrDirX (off : Byte)
  /-- EOR [d],y (57): R185, R133. -/
  | eorDirLongY (off : Byte)
  /-- EOR a,y (59): R185, R129. -/
  | eorAbsY (a : Word)
  /-- JMP al (5C): R302, R126. -/
  | jmpLong (a : Addr)
  /-- EOR a,x (5D): R185, R129. -/
  | eorAbsX (a : Word)
  /-- LSR a,x (5E): R198, R129. -/
  | lsrAbsX (a : Word)
  /-- EOR al,x (5F): R185, R134. -/
  | eorLongX (a : Addr)
  /-- ADC (d,x) (61): R181, R130. -/
  | adcDirXInd (off : Byte)
  /-- PER s (62): R280, R139. -/
  | per (disp : Word)
  /-- ADC d,s (63): R181, R140. -/
  | adcStk (off : Byte)
  /-- STZ d (64): R167, R123. -/
  | stzDir (off : Byte)
  /-- ADC d (65): R181, R123. -/
  | adcDir (off : Byte)
  /-- ROR d (66): R200, R123. -/
  | rorDir (off : Byte)
  /-- ADC [d] (67): R181, R133. -/
  | adcDirLong (off : Byte)
  /-- ADC # (69): R181, R121. -/
  | adcImm (v : Imm)
  /-- JMP (a) (6C): R303, R137. -/
  | jmpAbsInd (a : Word)
  /-- ADC a (6D): R181, R125. -/
  | adcAbs (a : Word)
  /-- ROR a (6E): R200, R125. -/
  | rorAbs (a : Word)
  /-- ADC al (6F): R181, R126. -/
  | adcLong (a : Addr)
  /-- BVS r (70): R298, R135. -/
  | bvs (disp : Byte)
  /-- ADC (d),y (71): R181, R131. -/
  | adcDirIndY (off : Byte)
  /-- ADC (d) (72): R181, R132. -/
  | adcDirInd (off : Byte)
  /-- ADC (d,s),y (73): R181, R141. -/
  | adcStkIndY (off : Byte)
  /-- STZ d,x (74): R167, R124. -/
  | stzDirX (off : Byte)
  /-- ADC d,x (75): R181, R124. -/
  | adcDirX (off : Byte)
  /-- ROR d,x (76): R200, R124. -/
  | rorDirX (off : Byte)
  /-- ADC [d],y (77): R181, R133. -/
  | adcDirLongY (off : Byte)
  /-- ADC a,y (79): R181, R129. -/
  | adcAbsY (a : Word)
  /-- JMP (a,x) (7C): R304, R138. -/
  | jmpAbsXInd (a : Word)
  /-- ADC a,x (7D): R181, R129. -/
  | adcAbsX (a : Word)
  /-- ROR a,x (7E): R200, R129. -/
  | rorAbsX (a : Word)
  /-- ADC al,x (7F): R181, R134. -/
  | adcLongX (a : Addr)
  /-- BRA r (80): R299, R135. -/
  | bra (disp : Byte)
  /-- STA (d,x) (81): R164, R130. -/
  | staDirXInd (off : Byte)
  /-- BRL rl (82): R300, R136. -/
  | brl (disp : Word)
  /-- STA d,s (83): R164, R140. -/
  | staStk (off : Byte)
  /-- STY d (84): R166, R123. -/
  | styDir (off : Byte)
  /-- STA d (85): R164, R123. -/
  | staDir (off : Byte)
  /-- STX d (86): R165, R123. -/
  | stxDir (off : Byte)
  /-- STA [d] (87): R164, R133. -/
  | staDirLong (off : Byte)
  /-- BIT # (89): R190, R121. -/
  | bitImm (v : Imm)
  /-- STY a (8C): R166, R125. -/
  | styAbs (a : Word)
  /-- STA a (8D): R164, R125. -/
  | staAbs (a : Word)
  /-- STX a (8E): R165, R125. -/
  | stxAbs (a : Word)
  /-- STA al (8F): R164, R126. -/
  | staLong (a : Addr)
  /-- BCC r (90): R291, R135. -/
  | bcc (disp : Byte)
  /-- STA (d),y (91): R164, R131. -/
  | staDirIndY (off : Byte)
  /-- STA (d) (92): R164, R132. -/
  | staDirInd (off : Byte)
  /-- STA (d,s),y (93): R164, R141. -/
  | staStkIndY (off : Byte)
  /-- STY d,x (94): R166, R124. -/
  | styDirX (off : Byte)
  /-- STA d,x (95): R164, R124. -/
  | staDirX (off : Byte)
  /-- STX d,y (96): R165, R124. -/
  | stxDirY (off : Byte)
  /-- STA [d],y (97): R164, R133. -/
  | staDirLongY (off : Byte)
  /-- STA a,y (99): R164, R129. -/
  | staAbsY (a : Word)
  /-- STZ a (9C): R167, R125. -/
  | stzAbs (a : Word)
  /-- STA a,x (9D): R164, R129. -/
  | staAbsX (a : Word)
  /-- STZ a,x (9E): R167, R129. -/
  | stzAbsX (a : Word)
  /-- STA al,x (9F): R164, R134. -/
  | staLongX (a : Addr)
  /-- LDY # (A0): R163, R121. -/
  | ldyImm (v : Imm)
  /-- LDA (d,x) (A1): R161, R130. -/
  | ldaDirXInd (off : Byte)
  /-- LDX # (A2): R162, R121. -/
  | ldxImm (v : Imm)
  /-- LDA d,s (A3): R161, R140. -/
  | ldaStk (off : Byte)
  /-- LDY d (A4): R163, R123. -/
  | ldyDir (off : Byte)
  /-- LDA d (A5): R161, R123. -/
  | ldaDir (off : Byte)
  /-- LDX d (A6): R162, R123. -/
  | ldxDir (off : Byte)
  /-- LDA [d] (A7): R161, R133. -/
  | ldaDirLong (off : Byte)
  /-- LDA # (A9): R161, R121. -/
  | ldaImm (v : Imm)
  /-- LDY a (AC): R163, R125. -/
  | ldyAbs (a : Word)
  /-- LDA a (AD): R161, R125. -/
  | ldaAbs (a : Word)
  /-- LDX a (AE): R162, R125. -/
  | ldxAbs (a : Word)
  /-- LDA al (AF): R161, R126. -/
  | ldaLong (a : Addr)
  /-- BCS r (B0): R292, R135. -/
  | bcs (disp : Byte)
  /-- LDA (d),y (B1): R161, R131. -/
  | ldaDirIndY (off : Byte)
  /-- LDA (d) (B2): R161, R132. -/
  | ldaDirInd (off : Byte)
  /-- LDA (d,s),y (B3): R161, R141. -/
  | ldaStkIndY (off : Byte)
  /-- LDY d,x (B4): R163, R124. -/
  | ldyDirX (off : Byte)
  /-- LDA d,x (B5): R161, R124. -/
  | ldaDirX (off : Byte)
  /-- LDX d,y (B6): R162, R124. -/
  | ldxDirY (off : Byte)
  /-- LDA [d],y (B7): R161, R133. -/
  | ldaDirLongY (off : Byte)
  /-- LDA a,y (B9): R161, R129. -/
  | ldaAbsY (a : Word)
  /-- LDY a,x (BC): R163, R129. -/
  | ldyAbsX (a : Word)
  /-- LDA a,x (BD): R161, R129. -/
  | ldaAbsX (a : Word)
  /-- LDX a,y (BE): R162, R129. -/
  | ldxAbsY (a : Word)
  /-- LDA al,x (BF): R161, R134. -/
  | ldaLongX (a : Addr)
  /-- CPY # (C0): R189, R121. -/
  | cpyImm (v : Imm)
  /-- CMP (d,x) (C1): R187, R130. -/
  | cmpDirXInd (off : Byte)
  /-- REP # (C2): R337, R121. -/
  | repImm (v : Byte)
  /-- CMP d,s (C3): R187, R140. -/
  | cmpStk (off : Byte)
  /-- CPY d (C4): R189, R123. -/
  | cpyDir (off : Byte)
  /-- CMP d (C5): R187, R123. -/
  | cmpDir (off : Byte)
  /-- DEC d (C6): R192, R123. -/
  | decDir (off : Byte)
  /-- CMP [d] (C7): R187, R133. -/
  | cmpDirLong (off : Byte)
  /-- CMP # (C9): R187, R121. -/
  | cmpImm (v : Imm)
  /-- CPY a (CC): R189, R125. -/
  | cpyAbs (a : Word)
  /-- CMP a (CD): R187, R125. -/
  | cmpAbs (a : Word)
  /-- DEC a (CE): R192, R125. -/
  | decAbs (a : Word)
  /-- CMP al (CF): R187, R126. -/
  | cmpLong (a : Addr)
  /-- BNE r (D0): R295, R135. -/
  | bne (disp : Byte)
  /-- CMP (d),y (D1): R187, R131. -/
  | cmpDirIndY (off : Byte)
  /-- CMP (d) (D2): R187, R132. -/
  | cmpDirInd (off : Byte)
  /-- CMP (d,s),y (D3): R187, R141. -/
  | cmpStkIndY (off : Byte)
  /-- PEI s (D4): R279, R139. -/
  | pei (off : Byte)
  /-- CMP d,x (D5): R187, R124. -/
  | cmpDirX (off : Byte)
  /-- DEC d,x (D6): R192, R124. -/
  | decDirX (off : Byte)
  /-- CMP [d],y (D7): R187, R133. -/
  | cmpDirLongY (off : Byte)
  /-- CMP a,y (D9): R187, R129. -/
  | cmpAbsY (a : Word)
  /-- JML (a) (DC): R305, R137. -/
  | jmlAbsInd (a : Word)
  /-- CMP a,x (DD): R187, R129. -/
  | cmpAbsX (a : Word)
  /-- DEC a,x (DE): R192, R129. -/
  | decAbsX (a : Word)
  /-- CMP al,x (DF): R187, R134. -/
  | cmpLongX (a : Addr)
  /-- CPX # (E0): R188, R121. -/
  | cpxImm (v : Imm)
  /-- SBC (d,x) (E1): R182, R130. -/
  | sbcDirXInd (off : Byte)
  /-- SEP # (E2): R338, R121. -/
  | sepImm (v : Byte)
  /-- SBC d,s (E3): R182, R140. -/
  | sbcStk (off : Byte)
  /-- CPX d (E4): R188, R123. -/
  | cpxDir (off : Byte)
  /-- SBC d (E5): R182, R123. -/
  | sbcDir (off : Byte)
  /-- INC d (E6): R191, R123. -/
  | incDir (off : Byte)
  /-- SBC [d] (E7): R182, R133. -/
  | sbcDirLong (off : Byte)
  /-- SBC # (E9): R182, R121. -/
  | sbcImm (v : Imm)
  /-- CPX a (EC): R188, R125. -/
  | cpxAbs (a : Word)
  /-- SBC a (ED): R182, R125. -/
  | sbcAbs (a : Word)
  /-- INC a (EE): R191, R125. -/
  | incAbs (a : Word)
  /-- SBC al (EF): R182, R126. -/
  | sbcLong (a : Addr)
  /-- BEQ r (F0): R293, R135. -/
  | beq (disp : Byte)
  /-- SBC (d),y (F1): R182, R131. -/
  | sbcDirIndY (off : Byte)
  /-- SBC (d) (F2): R182, R132. -/
  | sbcDirInd (off : Byte)
  /-- SBC (d,s),y (F3): R182, R141. -/
  | sbcStkIndY (off : Byte)
  /-- PEA s (F4): R278, R139. -/
  | pea (v : Word)
  /-- SBC d,x (F5): R182, R124. -/
  | sbcDirX (off : Byte)
  /-- INC d,x (F6): R191, R124. -/
  | incDirX (off : Byte)
  /-- SBC [d],y (F7): R182, R133. -/
  | sbcDirLongY (off : Byte)
  /-- SBC a,y (F9): R182, R129. -/
  | sbcAbsY (a : Word)
  /-- JSR (a,x) (FC): R307, R138. -/
  | jsrAbsXInd (a : Word)
  /-- SBC a,x (FD): R182, R129. -/
  | sbcAbsX (a : Word)
  /-- INC a,x (FE): R191, R129. -/
  | incAbsX (a : Word)
  /-- SBC al,x (FF): R182, R134. -/
  | sbcLongX (a : Addr)
  /-- PHP s (08): R268, R139. -/
  | php
  /-- ASL A (0A): R197, R127. -/
  | aslAcc
  /-- PHD s (0B): R271, R139. -/
  | phd
  /-- CLC (18): R330, R128. -/
  | clc
  /-- INC A (1A): R191, R127. -/
  | incAcc
  /-- TCS (1B): R241, R128. -/
  | tcs
  /-- PLP s (28): R275, R139. -/
  | plp
  /-- ROL A (2A): R199, R127. -/
  | rolAcc
  /-- PLD s (2B): R277, R139. -/
  | pld
  /-- SEC (38): R334, R128. -/
  | sec
  /-- DEC A (3A): R192, R127. -/
  | decAcc
  /-- TSC (3B): R242, R128. -/
  | tsc
  /-- RTI s (40): R362, R139. -/
  | rti
  /-- PHA s (48): R265, R139. -/
  | pha
  /-- LSR A (4A): R198, R127. -/
  | lsrAcc
  /-- PHK s (4B): R270, R139. -/
  | phk
  /-- CLI (58): R332, R128. -/
  | cli
  /-- PHY s (5A): R267, R139. -/
  | phy
  /-- TCD (5B): R239, R128. -/
  | tcd
  /-- RTS s (60): R309, R139. -/
  | rts
  /-- PLA s (68): R272, R139. -/
  | pla
  /-- ROR A (6A): R200, R127. -/
  | rorAcc
  /-- RTL s (6B): R310, R139. -/
  | rtl
  /-- SEI (78): R336, R128. -/
  | sei
  /-- PLY s (7A): R274, R139. -/
  | ply
  /-- TDC (7B): R240, R128. -/
  | tdc
  /-- DEY (88): R196, R128. -/
  | dey
  /-- TXA (8A): R233, R128. -/
  | txa
  /-- PHB s (8B): R269, R139. -/
  | phb
  /-- TYA (98): R234, R128. -/
  | tya
  /-- TXS (9A): R238, R128. -/
  | txs
  /-- TXY (9B): R235, R128. -/
  | txy
  /-- TAY (A8): R232, R128. -/
  | tay
  /-- TAX (AA): R231, R128. -/
  | tax
  /-- PLB s (AB): R276, R139. -/
  | plb
  /-- CLV (B8): R333, R128. -/
  | clv
  /-- TSX (BA): R237, R128. -/
  | tsx
  /-- TYX (BB): R236, R128. -/
  | tyx
  /-- INY (C8): R194, R128. -/
  | iny
  /-- DEX (CA): R195, R128. -/
  | dex
  /-- WAI (CB): R363, R128. -/
  | wai
  /-- CLD (D8): R331, R128. -/
  | cld
  /-- PHX s (DA): R266, R139. -/
  | phx
  /-- STP (DB): R364, R128. -/
  | stp
  /-- INX (E8): R193, R128. -/
  | inx
  /-- NOP (EA): R365, R128. -/
  | nop
  /-- XBA (EB): R243, R128. -/
  | xba
  /-- SED (F8): R335, R128. -/
  | sed
  /-- PLX s (FA): R273, R139. -/
  | plx
  /-- XCE (FB): R341, R128. -/
  | xce
deriving DecidableEq, Repr

end Sys2Proof
end

