-- ==== Sys2Proof/WellFormed.lean ====
section
/-!
DEFINITION. When an instruction is one the decoder can produce under the width flags P.M and P.X
(30_encoding.md R91, R93). Every other operand has its exact width in its type, and every value of
it is legal (R97, R98).
-/

namespace Sys2Proof

/-- An immediate has one byte exactly when its width flag is 1 (R93). -/
def Imm.fits (narrow : Bool) : Imm → Bool
  | .byte _ => narrow
  | .word _ => !narrow

/-- The instruction's length is the one P.M (format IMM_M) or P.X (format IMM_X) selects (R93). -/
def Instr.wellFormed (m x : Bool) : Instr → Bool
  | .oraImm v => v.fits m
  | .andImm v => v.fits m
  | .eorImm v => v.fits m
  | .adcImm v => v.fits m
  | .bitImm v => v.fits m
  | .ldaImm v => v.fits m
  | .cmpImm v => v.fits m
  | .sbcImm v => v.fits m
  | .ldyImm v => v.fits x
  | .ldxImm v => v.fits x
  | .cpyImm v => v.fits x
  | .cpxImm v => v.fits x
  | _ => true

end Sys2Proof
end

