-- ==== Sys2Proof/Decode.lean ====
section
/-!
DEFINITION. From bytes to instructions and back (30_encoding.md). The decoder is the opcode matrix
of R94, one cell an opcode, and the formats of R91; the encoder is written from R95's list of
opcodes and R91's layouts, one line a constructor. The byte-order helpers of R63 stand here too.
-/

namespace Sys2Proof

/-! ### Byte order and fields (R8, R9, R63) -/

/-- `v[7:0]`, the low byte of a 16-bit value. -/
def loByte (v : Word) : Byte := v.extractLsb' 0 8

/-- `v[15:8]`, the high byte of a 16-bit value. -/
def hiByte (v : Word) : Byte := v.extractLsb' 8 8

/-- `hi : lo`, the 16-bit value of two bytes. -/
def mkWord (hi lo : Byte) : Word := hi ++ lo

/-- `bank : offset`, a 24-bit effective address (R60). -/
def mkAddr (bank : Byte) (off : Word) : Addr := bank ++ off

/-- `ea[23:16]`, the bank of an effective address (R60). -/
def bankOf (ea : Addr) : Byte := ea.extractLsb' 16 8

/-- `ea[15:0]`, the offset of an effective address (R60). -/
def offOf (ea : Addr) : Word := ea.extractLsb' 0 16

/-- The sign extension of an 8-bit branch displacement to 16 bits (R92 (c)). -/
def sext16 (b : Byte) : Word := b.signExtend 16

/-- The bytes of a 16-bit field in memory order, low byte first (R63, R92 (a)). -/
def wordBytes (w : Word) : List Byte := [loByte w, hiByte w]

/-- The bytes of a 24-bit field in memory order: low, high, bank (R63, R92 (a)). -/
def addrBytes (a : Addr) : List Byte := [loByte (offOf a), hiByte (offOf a), bankOf a]

/-- The bytes of an immediate in memory order (R91). -/
def immBytes : Imm → List Byte
  | .byte b => [b]
  | .word w => wordBytes w

/-! ### Formats and the opcode matrix -/

/-- The formats of R91: what follows the opcode, and the instruction those bytes make. -/
inductive Shape where
  /-- IMP: the opcode alone. -/
  | imp (i : Instr)
  /-- B8: one operand byte. -/
  | b8 (f : Byte → Instr)
  /-- B16: `addrl, addrh`. -/
  | b16 (f : Word → Instr)
  /-- B24: `addrl, addrh, baddr`. -/
  | b24 (f : Addr → Instr)
  /-- IMM_M: one byte when P.M = 1, two when P.M = 0. -/
  | immM (f : Imm → Instr)
  /-- IMM_X: one byte when P.X = 1, two when P.X = 0. -/
  | immX (f : Imm → Instr)
  /-- BLK: `dstbnk, srcbnk`. -/
  | blk (f : Byte → Byte → Instr)

/-- One cell of the opcode matrix: mnemonic, addressing mode, format and instruction. -/
structure Cell where
  mnemonic : String
  mode : Mode
  shape : Shape

/-- Row 0 of the opcode matrix (R94): opcodes 00 to 0F. -/
def opcodeRow0 : List Cell :=
  [⟨"BRK", .stack, .b8 .brk⟩,
   ⟨"ORA", .dirXInd, .b8 .oraDirXInd⟩,
   ⟨"COP", .stack, .b8 .cop⟩,
   ⟨"ORA", .stk, .b8 .oraStk⟩,
   ⟨"TSB", .dir, .b8 .tsbDir⟩,
   ⟨"ORA", .dir, .b8 .oraDir⟩,
   ⟨"ASL", .dir, .b8 .aslDir⟩,
   ⟨"ORA", .dirLong, .b8 .oraDirLong⟩,
   ⟨"PHP", .stack, .imp .php⟩,
   ⟨"ORA", .imm, .immM .oraImm⟩,
   ⟨"ASL", .acc, .imp .aslAcc⟩,
   ⟨"PHD", .stack, .imp .phd⟩,
   ⟨"TSB", .abs, .b16 .tsbAbs⟩,
   ⟨"ORA", .abs, .b16 .oraAbs⟩,
   ⟨"ASL", .abs, .b16 .aslAbs⟩,
   ⟨"ORA", .long, .b24 .oraLong⟩]

/-- Row 1 of the opcode matrix (R94): opcodes 10 to 1F. -/
def opcodeRow1 : List Cell :=
  [⟨"BPL", .rel, .b8 .bpl⟩,
   ⟨"ORA", .dirIndY, .b8 .oraDirIndY⟩,
   ⟨"ORA", .dirInd, .b8 .oraDirInd⟩,
   ⟨"ORA", .stkIndY, .b8 .oraStkIndY⟩,
   ⟨"TRB", .dir, .b8 .trbDir⟩,
   ⟨"ORA", .dirX, .b8 .oraDirX⟩,
   ⟨"ASL", .dirX, .b8 .aslDirX⟩,
   ⟨"ORA", .dirLongY, .b8 .oraDirLongY⟩,
   ⟨"CLC", .imp, .imp .clc⟩,
   ⟨"ORA", .absY, .b16 .oraAbsY⟩,
   ⟨"INC", .acc, .imp .incAcc⟩,
   ⟨"TCS", .imp, .imp .tcs⟩,
   ⟨"TRB", .abs, .b16 .trbAbs⟩,
   ⟨"ORA", .absX, .b16 .oraAbsX⟩,
   ⟨"ASL", .absX, .b16 .aslAbsX⟩,
   ⟨"ORA", .longX, .b24 .oraLongX⟩]

/-- Row 2 of the opcode matrix (R94): opcodes 20 to 2F. -/
def opcodeRow2 : List Cell :=
  [⟨"JSR", .abs, .b16 .jsrAbs⟩,
   ⟨"AND", .dirXInd, .b8 .andDirXInd⟩,
   ⟨"JSL", .long, .b24 .jslLong⟩,
   ⟨"AND", .stk, .b8 .andStk⟩,
   ⟨"BIT", .dir, .b8 .bitDir⟩,
   ⟨"AND", .dir, .b8 .andDir⟩,
   ⟨"ROL", .dir, .b8 .rolDir⟩,
   ⟨"AND", .dirLong, .b8 .andDirLong⟩,
   ⟨"PLP", .stack, .imp .plp⟩,
   ⟨"AND", .imm, .immM .andImm⟩,
   ⟨"ROL", .acc, .imp .rolAcc⟩,
   ⟨"PLD", .stack, .imp .pld⟩,
   ⟨"BIT", .abs, .b16 .bitAbs⟩,
   ⟨"AND", .abs, .b16 .andAbs⟩,
   ⟨"ROL", .abs, .b16 .rolAbs⟩,
   ⟨"AND", .long, .b24 .andLong⟩]

/-- Row 3 of the opcode matrix (R94): opcodes 30 to 3F. -/
def opcodeRow3 : List Cell :=
  [⟨"BMI", .rel, .b8 .bmi⟩,
   ⟨"AND", .dirIndY, .b8 .andDirIndY⟩,
   ⟨"AND", .dirInd, .b8 .andDirInd⟩,
   ⟨"AND", .stkIndY, .b8 .andStkIndY⟩,
   ⟨"BIT", .dirX, .b8 .bitDirX⟩,
   ⟨"AND", .dirX, .b8 .andDirX⟩,
   ⟨"ROL", .dirX, .b8 .rolDirX⟩,
   ⟨"AND", .dirLongY, .b8 .andDirLongY⟩,
   ⟨"SEC", .imp, .imp .sec⟩,
   ⟨"AND", .absY, .b16 .andAbsY⟩,
   ⟨"DEC", .acc, .imp .decAcc⟩,
   ⟨"TSC", .imp, .imp .tsc⟩,
   ⟨"BIT", .absX, .b16 .bitAbsX⟩,
   ⟨"AND", .absX, .b16 .andAbsX⟩,
   ⟨"ROL", .absX, .b16 .rolAbsX⟩,
   ⟨"AND", .longX, .b24 .andLongX⟩]

/-- Row 4 of the opcode matrix (R94): opcodes 40 to 4F. -/
def opcodeRow4 : List Cell :=
  [⟨"RTI", .stack, .imp .rti⟩,
   ⟨"EOR", .dirXInd, .b8 .eorDirXInd⟩,
   ⟨"WDM", .unnamed, .b8 .wdm⟩,
   ⟨"EOR", .stk, .b8 .eorStk⟩,
   ⟨"MVP", .blockMove, .blk .mvp⟩,
   ⟨"EOR", .dir, .b8 .eorDir⟩,
   ⟨"LSR", .dir, .b8 .lsrDir⟩,
   ⟨"EOR", .dirLong, .b8 .eorDirLong⟩,
   ⟨"PHA", .stack, .imp .pha⟩,
   ⟨"EOR", .imm, .immM .eorImm⟩,
   ⟨"LSR", .acc, .imp .lsrAcc⟩,
   ⟨"PHK", .stack, .imp .phk⟩,
   ⟨"JMP", .abs, .b16 .jmpAbs⟩,
   ⟨"EOR", .abs, .b16 .eorAbs⟩,
   ⟨"LSR", .abs, .b16 .lsrAbs⟩,
   ⟨"EOR", .long, .b24 .eorLong⟩]

/-- Row 5 of the opcode matrix (R94): opcodes 50 to 5F. -/
def opcodeRow5 : List Cell :=
  [⟨"BVC", .rel, .b8 .bvc⟩,
   ⟨"EOR", .dirIndY, .b8 .eorDirIndY⟩,
   ⟨"EOR", .dirInd, .b8 .eorDirInd⟩,
   ⟨"EOR", .stkIndY, .b8 .eorStkIndY⟩,
   ⟨"MVN", .blockMove, .blk .mvn⟩,
   ⟨"EOR", .dirX, .b8 .eorDirX⟩,
   ⟨"LSR", .dirX, .b8 .lsrDirX⟩,
   ⟨"EOR", .dirLongY, .b8 .eorDirLongY⟩,
   ⟨"CLI", .imp, .imp .cli⟩,
   ⟨"EOR", .absY, .b16 .eorAbsY⟩,
   ⟨"PHY", .stack, .imp .phy⟩,
   ⟨"TCD", .imp, .imp .tcd⟩,
   ⟨"JMP", .long, .b24 .jmpLong⟩,
   ⟨"EOR", .absX, .b16 .eorAbsX⟩,
   ⟨"LSR", .absX, .b16 .lsrAbsX⟩,
   ⟨"EOR", .longX, .b24 .eorLongX⟩]

/-- Row 6 of the opcode matrix (R94): opcodes 60 to 6F. -/
def opcodeRow6 : List Cell :=
  [⟨"RTS", .stack, .imp .rts⟩,
   ⟨"ADC", .dirXInd, .b8 .adcDirXInd⟩,
   ⟨"PER", .stack, .b16 .per⟩,
   ⟨"ADC", .stk, .b8 .adcStk⟩,
   ⟨"STZ", .dir, .b8 .stzDir⟩,
   ⟨"ADC", .dir, .b8 .adcDir⟩,
   ⟨"ROR", .dir, .b8 .rorDir⟩,
   ⟨"ADC", .dirLong, .b8 .adcDirLong⟩,
   ⟨"PLA", .stack, .imp .pla⟩,
   ⟨"ADC", .imm, .immM .adcImm⟩,
   ⟨"ROR", .acc, .imp .rorAcc⟩,
   ⟨"RTL", .stack, .imp .rtl⟩,
   ⟨"JMP", .absInd, .b16 .jmpAbsInd⟩,
   ⟨"ADC", .abs, .b16 .adcAbs⟩,
   ⟨"ROR", .abs, .b16 .rorAbs⟩,
   ⟨"ADC", .long, .b24 .adcLong⟩]

/-- Row 7 of the opcode matrix (R94): opcodes 70 to 7F. -/
def opcodeRow7 : List Cell :=
  [⟨"BVS", .rel, .b8 .bvs⟩,
   ⟨"ADC", .dirIndY, .b8 .adcDirIndY⟩,
   ⟨"ADC", .dirInd, .b8 .adcDirInd⟩,
   ⟨"ADC", .stkIndY, .b8 .adcStkIndY⟩,
   ⟨"STZ", .dirX, .b8 .stzDirX⟩,
   ⟨"ADC", .dirX, .b8 .adcDirX⟩,
   ⟨"ROR", .dirX, .b8 .rorDirX⟩,
   ⟨"ADC", .dirLongY, .b8 .adcDirLongY⟩,
   ⟨"SEI", .imp, .imp .sei⟩,
   ⟨"ADC", .absY, .b16 .adcAbsY⟩,
   ⟨"PLY", .stack, .imp .ply⟩,
   ⟨"TDC", .imp, .imp .tdc⟩,
   ⟨"JMP", .absXInd, .b16 .jmpAbsXInd⟩,
   ⟨"ADC", .absX, .b16 .adcAbsX⟩,
   ⟨"ROR", .absX, .b16 .rorAbsX⟩,
   ⟨"ADC", .longX, .b24 .adcLongX⟩]

/-- Row 8 of the opcode matrix (R94): opcodes 80 to 8F. -/
def opcodeRow8 : List Cell :=
  [⟨"BRA", .rel, .b8 .bra⟩,
   ⟨"STA", .dirXInd, .b8 .staDirXInd⟩,
   ⟨"BRL", .relLong, .b16 .brl⟩,
   ⟨"STA", .stk, .b8 .staStk⟩,
   ⟨"STY", .dir, .b8 .styDir⟩,
   ⟨"STA", .dir, .b8 .staDir⟩,
   ⟨"STX", .dir, .b8 .stxDir⟩,
   ⟨"STA", .dirLong, .b8 .staDirLong⟩,
   ⟨"DEY", .imp, .imp .dey⟩,
   ⟨"BIT", .imm, .immM .bitImm⟩,
   ⟨"TXA", .imp, .imp .txa⟩,
   ⟨"PHB", .stack, .imp .phb⟩,
   ⟨"STY", .abs, .b16 .styAbs⟩,
   ⟨"STA", .abs, .b16 .staAbs⟩,
   ⟨"STX", .abs, .b16 .stxAbs⟩,
   ⟨"STA", .long, .b24 .staLong⟩]

/-- Row 9 of the opcode matrix (R94): opcodes 90 to 9F. -/
def opcodeRow9 : List Cell :=
  [⟨"BCC", .rel, .b8 .bcc⟩,
   ⟨"STA", .dirIndY, .b8 .staDirIndY⟩,
   ⟨"STA", .dirInd, .b8 .staDirInd⟩,
   ⟨"STA", .stkIndY, .b8 .staStkIndY⟩,
   ⟨"STY", .dirX, .b8 .styDirX⟩,
   ⟨"STA", .dirX, .b8 .staDirX⟩,
   ⟨"STX", .dirY, .b8 .stxDirY⟩,
   ⟨"STA", .dirLongY, .b8 .staDirLongY⟩,
   ⟨"TYA", .imp, .imp .tya⟩,
   ⟨"STA", .absY, .b16 .staAbsY⟩,
   ⟨"TXS", .imp, .imp .txs⟩,
   ⟨"TXY", .imp, .imp .txy⟩,
   ⟨"STZ", .abs, .b16 .stzAbs⟩,
   ⟨"STA", .absX, .b16 .staAbsX⟩,
   ⟨"STZ", .absX, .b16 .stzAbsX⟩,
   ⟨"STA", .longX, .b24 .staLongX⟩]

/-- Row A of the opcode matrix (R94): opcodes A0 to AF. -/
def opcodeRowA : List Cell :=
  [⟨"LDY", .imm, .immX .ldyImm⟩,
   ⟨"LDA", .dirXInd, .b8 .ldaDirXInd⟩,
   ⟨"LDX", .imm, .immX .ldxImm⟩,
   ⟨"LDA", .stk, .b8 .ldaStk⟩,
   ⟨"LDY", .dir, .b8 .ldyDir⟩,
   ⟨"LDA", .dir, .b8 .ldaDir⟩,
   ⟨"LDX", .dir, .b8 .ldxDir⟩,
   ⟨"LDA", .dirLong, .b8 .ldaDirLong⟩,
   ⟨"TAY", .imp, .imp .tay⟩,
   ⟨"LDA", .imm, .immM .ldaImm⟩,
   ⟨"TAX", .imp, .imp .tax⟩,
   ⟨"PLB", .stack, .imp .plb⟩,
   ⟨"LDY", .abs, .b16 .ldyAbs⟩,
   ⟨"LDA", .abs, .b16 .ldaAbs⟩,
   ⟨"LDX", .abs, .b16 .ldxAbs⟩,
   ⟨"LDA", .long, .b24 .ldaLong⟩]

/-- Row B of the opcode matrix (R94): opcodes B0 to BF. -/
def opcodeRowB : List Cell :=
  [⟨"BCS", .rel, .b8 .bcs⟩,
   ⟨"LDA", .dirIndY, .b8 .ldaDirIndY⟩,
   ⟨"LDA", .dirInd, .b8 .ldaDirInd⟩,
   ⟨"LDA", .stkIndY, .b8 .ldaStkIndY⟩,
   ⟨"LDY", .dirX, .b8 .ldyDirX⟩,
   ⟨"LDA", .dirX, .b8 .ldaDirX⟩,
   ⟨"LDX", .dirY, .b8 .ldxDirY⟩,
   ⟨"LDA", .dirLongY, .b8 .ldaDirLongY⟩,
   ⟨"CLV", .imp, .imp .clv⟩,
   ⟨"LDA", .absY, .b16 .ldaAbsY⟩,
   ⟨"TSX", .imp, .imp .tsx⟩,
   ⟨"TYX", .imp, .imp .tyx⟩,
   ⟨"LDY", .absX, .b16 .ldyAbsX⟩,
   ⟨"LDA", .absX, .b16 .ldaAbsX⟩,
   ⟨"LDX", .absY, .b16 .ldxAbsY⟩,
   ⟨"LDA", .longX, .b24 .ldaLongX⟩]

/-- Row C of the opcode matrix (R94): opcodes C0 to CF. -/
def opcodeRowC : List Cell :=
  [⟨"CPY", .imm, .immX .cpyImm⟩,
   ⟨"CMP", .dirXInd, .b8 .cmpDirXInd⟩,
   ⟨"REP", .imm, .b8 .repImm⟩,
   ⟨"CMP", .stk, .b8 .cmpStk⟩,
   ⟨"CPY", .dir, .b8 .cpyDir⟩,
   ⟨"CMP", .dir, .b8 .cmpDir⟩,
   ⟨"DEC", .dir, .b8 .decDir⟩,
   ⟨"CMP", .dirLong, .b8 .cmpDirLong⟩,
   ⟨"INY", .imp, .imp .iny⟩,
   ⟨"CMP", .imm, .immM .cmpImm⟩,
   ⟨"DEX", .imp, .imp .dex⟩,
   ⟨"WAI", .imp, .imp .wai⟩,
   ⟨"CPY", .abs, .b16 .cpyAbs⟩,
   ⟨"CMP", .abs, .b16 .cmpAbs⟩,
   ⟨"DEC", .abs, .b16 .decAbs⟩,
   ⟨"CMP", .long, .b24 .cmpLong⟩]

/-- Row D of the opcode matrix (R94): opcodes D0 to DF. -/
def opcodeRowD : List Cell :=
  [⟨"BNE", .rel, .b8 .bne⟩,
   ⟨"CMP", .dirIndY, .b8 .cmpDirIndY⟩,
   ⟨"CMP", .dirInd, .b8 .cmpDirInd⟩,
   ⟨"CMP", .stkIndY, .b8 .cmpStkIndY⟩,
   ⟨"PEI", .stack, .b8 .pei⟩,
   ⟨"CMP", .dirX, .b8 .cmpDirX⟩,
   ⟨"DEC", .dirX, .b8 .decDirX⟩,
   ⟨"CMP", .dirLongY, .b8 .cmpDirLongY⟩,
   ⟨"CLD", .imp, .imp .cld⟩,
   ⟨"CMP", .absY, .b16 .cmpAbsY⟩,
   ⟨"PHX", .stack, .imp .phx⟩,
   ⟨"STP", .imp, .imp .stp⟩,
   ⟨"JML", .absInd, .b16 .jmlAbsInd⟩,
   ⟨"CMP", .absX, .b16 .cmpAbsX⟩,
   ⟨"DEC", .absX, .b16 .decAbsX⟩,
   ⟨"CMP", .longX, .b24 .cmpLongX⟩]

/-- Row E of the opcode matrix (R94): opcodes E0 to EF. -/
def opcodeRowE : List Cell :=
  [⟨"CPX", .imm, .immX .cpxImm⟩,
   ⟨"SBC", .dirXInd, .b8 .sbcDirXInd⟩,
   ⟨"SEP", .imm, .b8 .sepImm⟩,
   ⟨"SBC", .stk, .b8 .sbcStk⟩,
   ⟨"CPX", .dir, .b8 .cpxDir⟩,
   ⟨"SBC", .dir, .b8 .sbcDir⟩,
   ⟨"INC", .dir, .b8 .incDir⟩,
   ⟨"SBC", .dirLong, .b8 .sbcDirLong⟩,
   ⟨"INX", .imp, .imp .inx⟩,
   ⟨"SBC", .imm, .immM .sbcImm⟩,
   ⟨"NOP", .imp, .imp .nop⟩,
   ⟨"XBA", .imp, .imp .xba⟩,
   ⟨"CPX", .abs, .b16 .cpxAbs⟩,
   ⟨"SBC", .abs, .b16 .sbcAbs⟩,
   ⟨"INC", .abs, .b16 .incAbs⟩,
   ⟨"SBC", .long, .b24 .sbcLong⟩]

/-- Row F of the opcode matrix (R94): opcodes F0 to FF. -/
def opcodeRowF : List Cell :=
  [⟨"BEQ", .rel, .b8 .beq⟩,
   ⟨"SBC", .dirIndY, .b8 .sbcDirIndY⟩,
   ⟨"SBC", .dirInd, .b8 .sbcDirInd⟩,
   ⟨"SBC", .stkIndY, .b8 .sbcStkIndY⟩,
   ⟨"PEA", .stack, .b16 .pea⟩,
   ⟨"SBC", .dirX, .b8 .sbcDirX⟩,
   ⟨"INC", .dirX, .b8 .incDirX⟩,
   ⟨"SBC", .dirLongY, .b8 .sbcDirLongY⟩,
   ⟨"SED", .imp, .imp .sed⟩,
   ⟨"SBC", .absY, .b16 .sbcAbsY⟩,
   ⟨"PLX", .stack, .imp .plx⟩,
   ⟨"XCE", .imp, .imp .xce⟩,
   ⟨"JSR", .absXInd, .b16 .jsrAbsXInd⟩,
   ⟨"SBC", .absX, .b16 .sbcAbsX⟩,
   ⟨"INC", .absX, .b16 .incAbsX⟩,
   ⟨"SBC", .longX, .b24 .sbcLongX⟩]

/-- The opcode matrix (R94), row by row. -/
def opcodeMatrix : List (List Cell) :=
  [opcodeRow0, opcodeRow1, opcodeRow2, opcodeRow3, opcodeRow4, opcodeRow5, opcodeRow6, opcodeRow7] ++
  [opcodeRow8, opcodeRow9, opcodeRowA, opcodeRowB, opcodeRowC, opcodeRowD, opcodeRowE, opcodeRowF]

/-- The cell of an opcode: row by its high digit, column by its low digit (R94). -/
def cellOf (op : Byte) : Option Cell :=
  match opcodeMatrix[op.toNat / 16]? with
  | some row => row[op.toNat % 16]?
  | none => none

/-! ### Decoding -/

/-- Why the decoder answers no instruction. No BYTES are illegal on this hardware (R97); only too
few bytes can be. -/
inductive DecodeError where
  /-- There is no byte at all. -/
  | noOpcode
  /-- The matrix has no cell for this opcode. It has one for all 256 (R90), so this never arises. -/
  | unassigned (op : Byte)
  /-- The bytes end before the operand of this opcode is complete. -/
  | truncated (op : Byte)
deriving DecidableEq, Repr

/-- An immediate of one byte when its width flag is 1 and of two when it is 0 (R93). -/
def readImm (narrow : Bool) : List Byte → Option (Imm × List Byte)
  | b :: rest => if narrow then some (.byte b, rest) else
      match rest with
      | h :: rest' => some (.word (mkWord h b), rest')
      | [] => none
  | [] => none

/-- Reads the operand of a format, given P.M and P.X (R91, R93). -/
def readOperand (m x : Bool) : Shape → List Byte → Option (Instr × List Byte)
  | .imp i, rest => some (i, rest)
  | .b8 f, b :: rest => some (f b, rest)
  | .b16 f, l :: h :: rest => some (f (mkWord h l), rest)
  | .b24 f, l :: h :: b :: rest => some (f (mkAddr b (mkWord h l)), rest)
  | .immM f, bs => (readImm m bs).map fun r => (f r.1, r.2)
  | .immX f, bs => (readImm x bs).map fun r => (f r.1, r.2)
  | .blk f, d :: s :: rest => some (f d s, rest)
  | .b8 _, [] => none
  | .b16 _, [] => none
  | .b16 _, [_] => none
  | .b24 _, [] => none
  | .b24 _, [_] => none
  | .b24 _, [_, _] => none
  | .blk _, [] => none
  | .blk _, [_] => none

/-- Decodes one instruction from the head of a list of bytes under the width flags P.M and P.X,
and answers the bytes after it (R90, R91, R93). -/
def decode (m x : Bool) : List Byte → Except DecodeError (Instr × List Byte)
  | [] => .error .noOpcode
  | op :: rest =>
    match cellOf op with
    | none => .error (.unassigned op)
    | some cell =>
      match readOperand m x cell.shape rest with
      | some r => .ok r
      | none => .error (.truncated op)

/-! ### Encoding -/

/-- The bytes of an instruction in memory order (R91, R95). -/
def encode : Instr → List Byte
  | .brk sig => [0x00, sig]
  | .oraDirXInd off => [0x01, off]
  | .cop sig => [0x02, sig]
  | .oraStk off => [0x03, off]
  | .tsbDir off => [0x04, off]
  | .oraDir off => [0x05, off]
  | .aslDir off => [0x06, off]
  | .oraDirLong off => [0x07, off]
  | .php => [0x08]
  | .oraImm v => 0x09 :: immBytes v
  | .aslAcc => [0x0A]
  | .phd => [0x0B]
  | .tsbAbs a => 0x0C :: wordBytes a
  | .oraAbs a => 0x0D :: wordBytes a
  | .aslAbs a => 0x0E :: wordBytes a
  | .oraLong a => 0x0F :: addrBytes a
  | .bpl disp => [0x10, disp]
  | .oraDirIndY off => [0x11, off]
  | .oraDirInd off => [0x12, off]
  | .oraStkIndY off => [0x13, off]
  | .trbDir off => [0x14, off]
  | .oraDirX off => [0x15, off]
  | .aslDirX off => [0x16, off]
  | .oraDirLongY off => [0x17, off]
  | .clc => [0x18]
  | .oraAbsY a => 0x19 :: wordBytes a
  | .incAcc => [0x1A]
  | .tcs => [0x1B]
  | .trbAbs a => 0x1C :: wordBytes a
  | .oraAbsX a => 0x1D :: wordBytes a
  | .aslAbsX a => 0x1E :: wordBytes a
  | .oraLongX a => 0x1F :: addrBytes a
  | .jsrAbs a => 0x20 :: wordBytes a
  | .andDirXInd off => [0x21, off]
  | .jslLong a => 0x22 :: addrBytes a
  | .andStk off => [0x23, off]
  | .bitDir off => [0x24, off]
  | .andDir off => [0x25, off]
  | .rolDir off => [0x26, off]
  | .andDirLong off => [0x27, off]
  | .plp => [0x28]
  | .andImm v => 0x29 :: immBytes v
  | .rolAcc => [0x2A]
  | .pld => [0x2B]
  | .bitAbs a => 0x2C :: wordBytes a
  | .andAbs a => 0x2D :: wordBytes a
  | .rolAbs a => 0x2E :: wordBytes a
  | .andLong a => 0x2F :: addrBytes a
  | .bmi disp => [0x30, disp]
  | .andDirIndY off => [0x31, off]
  | .andDirInd off => [0x32, off]
  | .andStkIndY off => [0x33, off]
  | .bitDirX off => [0x34, off]
  | .andDirX off => [0x35, off]
  | .rolDirX off => [0x36, off]
  | .andDirLongY off => [0x37, off]
  | .sec => [0x38]
  | .andAbsY a => 0x39 :: wordBytes a
  | .decAcc => [0x3A]
  | .tsc => [0x3B]
  | .bitAbsX a => 0x3C :: wordBytes a
  | .andAbsX a => 0x3D :: wordBytes a
  | .rolAbsX a => 0x3E :: wordBytes a
  | .andLongX a => 0x3F :: addrBytes a
  | .rti => [0x40]
  | .eorDirXInd off => [0x41, off]
  | .wdm ignored => [0x42, ignored]
  | .eorStk off => [0x43, off]
  | .mvp dst src => [0x44, dst, src]
  | .eorDir off => [0x45, off]
  | .lsrDir off => [0x46, off]
  | .eorDirLong off => [0x47, off]
  | .pha => [0x48]
  | .eorImm v => 0x49 :: immBytes v
  | .lsrAcc => [0x4A]
  | .phk => [0x4B]
  | .jmpAbs a => 0x4C :: wordBytes a
  | .eorAbs a => 0x4D :: wordBytes a
  | .lsrAbs a => 0x4E :: wordBytes a
  | .eorLong a => 0x4F :: addrBytes a
  | .bvc disp => [0x50, disp]
  | .eorDirIndY off => [0x51, off]
  | .eorDirInd off => [0x52, off]
  | .eorStkIndY off => [0x53, off]
  | .mvn dst src => [0x54, dst, src]
  | .eorDirX off => [0x55, off]
  | .lsrDirX off => [0x56, off]
  | .eorDirLongY off => [0x57, off]
  | .cli => [0x58]
  | .eorAbsY a => 0x59 :: wordBytes a
  | .phy => [0x5A]
  | .tcd => [0x5B]
  | .jmpLong a => 0x5C :: addrBytes a
  | .eorAbsX a => 0x5D :: wordBytes a
  | .lsrAbsX a => 0x5E :: wordBytes a
  | .eorLongX a => 0x5F :: addrBytes a
  | .rts => [0x60]
  | .adcDirXInd off => [0x61, off]
  | .per disp => 0x62 :: wordBytes disp
  | .adcStk off => [0x63, off]
  | .stzDir off => [0x64, off]
  | .adcDir off => [0x65, off]
  | .rorDir off => [0x66, off]
  | .adcDirLong off => [0x67, off]
  | .pla => [0x68]
  | .adcImm v => 0x69 :: immBytes v
  | .rorAcc => [0x6A]
  | .rtl => [0x6B]
  | .jmpAbsInd a => 0x6C :: wordBytes a
  | .adcAbs a => 0x6D :: wordBytes a
  | .rorAbs a => 0x6E :: wordBytes a
  | .adcLong a => 0x6F :: addrBytes a
  | .bvs disp => [0x70, disp]
  | .adcDirIndY off => [0x71, off]
  | .adcDirInd off => [0x72, off]
  | .adcStkIndY off => [0x73, off]
  | .stzDirX off => [0x74, off]
  | .adcDirX off => [0x75, off]
  | .rorDirX off => [0x76, off]
  | .adcDirLongY off => [0x77, off]
  | .sei => [0x78]
  | .adcAbsY a => 0x79 :: wordBytes a
  | .ply => [0x7A]
  | .tdc => [0x7B]
  | .jmpAbsXInd a => 0x7C :: wordBytes a
  | .adcAbsX a => 0x7D :: wordBytes a
  | .rorAbsX a => 0x7E :: wordBytes a
  | .adcLongX a => 0x7F :: addrBytes a
  | .bra disp => [0x80, disp]
  | .staDirXInd off => [0x81, off]
  | .brl disp => 0x82 :: wordBytes disp
  | .staStk off => [0x83, off]
  | .styDir off => [0x84, off]
  | .staDir off => [0x85, off]
  | .stxDir off => [0x86, off]
  | .staDirLong off => [0x87, off]
  | .dey => [0x88]
  | .bitImm v => 0x89 :: immBytes v
  | .txa => [0x8A]
  | .phb => [0x8B]
  | .styAbs a => 0x8C :: wordBytes a
  | .staAbs a => 0x8D :: wordBytes a
  | .stxAbs a => 0x8E :: wordBytes a
  | .staLong a => 0x8F :: addrBytes a
  | .bcc disp => [0x90, disp]
  | .staDirIndY off => [0x91, off]
  | .staDirInd off => [0x92, off]
  | .staStkIndY off => [0x93, off]
  | .styDirX off => [0x94, off]
  | .staDirX off => [0x95, off]
  | .stxDirY off => [0x96, off]
  | .staDirLongY off => [0x97, off]
  | .tya => [0x98]
  | .staAbsY a => 0x99 :: wordBytes a
  | .txs => [0x9A]
  | .txy => [0x9B]
  | .stzAbs a => 0x9C :: wordBytes a
  | .staAbsX a => 0x9D :: wordBytes a
  | .stzAbsX a => 0x9E :: wordBytes a
  | .staLongX a => 0x9F :: addrBytes a
  | .ldyImm v => 0xA0 :: immBytes v
  | .ldaDirXInd off => [0xA1, off]
  | .ldxImm v => 0xA2 :: immBytes v
  | .ldaStk off => [0xA3, off]
  | .ldyDir off => [0xA4, off]
  | .ldaDir off => [0xA5, off]
  | .ldxDir off => [0xA6, off]
  | .ldaDirLong off => [0xA7, off]
  | .tay => [0xA8]
  | .ldaImm v => 0xA9 :: immBytes v
  | .tax => [0xAA]
  | .plb => [0xAB]
  | .ldyAbs a => 0xAC :: wordBytes a
  | .ldaAbs a => 0xAD :: wordBytes a
  | .ldxAbs a => 0xAE :: wordBytes a
  | .ldaLong a => 0xAF :: addrBytes a
  | .bcs disp => [0xB0, disp]
  | .ldaDirIndY off => [0xB1, off]
  | .ldaDirInd off => [0xB2, off]
  | .ldaStkIndY off => [0xB3, off]
  | .ldyDirX off => [0xB4, off]
  | .ldaDirX off => [0xB5, off]
  | .ldxDirY off => [0xB6, off]
  | .ldaDirLongY off => [0xB7, off]
  | .clv => [0xB8]
  | .ldaAbsY a => 0xB9 :: wordBytes a
  | .tsx => [0xBA]
  | .tyx => [0xBB]
  | .ldyAbsX a => 0xBC :: wordBytes a
  | .ldaAbsX a => 0xBD :: wordBytes a
  | .ldxAbsY a => 0xBE :: wordBytes a
  | .ldaLongX a => 0xBF :: addrBytes a
  | .cpyImm v => 0xC0 :: immBytes v
  | .cmpDirXInd off => [0xC1, off]
  | .repImm v => [0xC2, v]
  | .cmpStk off => [0xC3, off]
  | .cpyDir off => [0xC4, off]
  | .cmpDir off => [0xC5, off]
  | .decDir off => [0xC6, off]
  | .cmpDirLong off => [0xC7, off]
  | .iny => [0xC8]
  | .cmpImm v => 0xC9 :: immBytes v
  | .dex => [0xCA]
  | .wai => [0xCB]
  | .cpyAbs a => 0xCC :: wordBytes a
  | .cmpAbs a => 0xCD :: wordBytes a
  | .decAbs a => 0xCE :: wordBytes a
  | .cmpLong a => 0xCF :: addrBytes a
  | .bne disp => [0xD0, disp]
  | .cmpDirIndY off => [0xD1, off]
  | .cmpDirInd off => [0xD2, off]
  | .cmpStkIndY off => [0xD3, off]
  | .pei off => [0xD4, off]
  | .cmpDirX off => [0xD5, off]
  | .decDirX off => [0xD6, off]
  | .cmpDirLongY off => [0xD7, off]
  | .cld => [0xD8]
  | .cmpAbsY a => 0xD9 :: wordBytes a
  | .phx => [0xDA]
  | .stp => [0xDB]
  | .jmlAbsInd a => 0xDC :: wordBytes a
  | .cmpAbsX a => 0xDD :: wordBytes a
  | .decAbsX a => 0xDE :: wordBytes a
  | .cmpLongX a => 0xDF :: addrBytes a
  | .cpxImm v => 0xE0 :: immBytes v
  | .sbcDirXInd off => [0xE1, off]
  | .sepImm v => [0xE2, v]
  | .sbcStk off => [0xE3, off]
  | .cpxDir off => [0xE4, off]
  | .sbcDir off => [0xE5, off]
  | .incDir off => [0xE6, off]
  | .sbcDirLong off => [0xE7, off]
  | .inx => [0xE8]
  | .sbcImm v => 0xE9 :: immBytes v
  | .nop => [0xEA]
  | .xba => [0xEB]
  | .cpxAbs a => 0xEC :: wordBytes a
  | .sbcAbs a => 0xED :: wordBytes a
  | .incAbs a => 0xEE :: wordBytes a
  | .sbcLong a => 0xEF :: addrBytes a
  | .beq disp => [0xF0, disp]
  | .sbcDirIndY off => [0xF1, off]
  | .sbcDirInd off => [0xF2, off]
  | .sbcStkIndY off => [0xF3, off]
  | .pea v => 0xF4 :: wordBytes v
  | .sbcDirX off => [0xF5, off]
  | .incDirX off => [0xF6, off]
  | .sbcDirLongY off => [0xF7, off]
  | .sed => [0xF8]
  | .sbcAbsY a => 0xF9 :: wordBytes a
  | .plx => [0xFA]
  | .xce => [0xFB]
  | .jsrAbsXInd a => 0xFC :: wordBytes a
  | .sbcAbsX a => 0xFD :: wordBytes a
  | .incAbsX a => 0xFE :: wordBytes a
  | .sbcLongX a => 0xFF :: addrBytes a

/-- The length of an instruction in bytes (R90, R93). -/
def instrLength (i : Instr) : Nat := (encode i).length

/-- The four bytes that a number spells, its least significant byte first. -/
def tableBytes (w : Nat) : List Byte :=
  [BitVec.ofNat 8 w, BitVec.ofNat 8 (w >>> 8), BitVec.ofNat 8 (w >>> 16), BitVec.ofNat 8 (w >>> 24)]

/-- The instruction the decoder reads from the bytes of a table word, the bits from `nbits` up
being 0. The width flags are those of the reset state, P.M = P.X = 1 (R40). -/
def decodeTableWord (nbits w : Nat) : Option Instr :=
  match decode true true (tableBytes (w % 2 ^ nbits)) with
  | .ok r => some r.1
  | .error _ => none

end Sys2Proof
end

