-- ==== Sys2Proof/Config.lean ====
section
/-!
DEFINITION. The parameters the spec leaves to the implementation (00_scope.md R6;
92_eei_decisions.md D11 to D15) and the free values. The parameters are plain data that State
carries, so that one model covers every choice; the free values are opaque constants.
-/

namespace Sys2Proof

/-- VARIANT (R6, D11): which of the two parts the machine is. -/
inductive Variant where
  | w65c816
  | w65c802
deriving DecidableEq, Repr

/-- BLOCK_MOVE_FINAL_C (R354, D13): the value of C when a block move ends. -/
inductive FinalC where
  /-- `$FFFF`, the default: the last decrement happens like the others. -/
  | ffff
  /-- `$0000`. -/
  | zero
deriving DecidableEq, Repr

/-- DECIMAL_ALU (R183, D14, U1): what ADC and SBC give with P.D = 1. -/
inductive DecimalAlu where
  /-- The digit-serial algorithm of R183, the default. -/
  | adopted
  /-- Only what any correct BCD adder gives: for operands that are valid BCD the result and the
  carry; V, and everything for other operands, is a free value (U1). -/
  | unspecified
deriving DecidableEq, Repr

/-- The parameters of one machine. They never change while it runs. -/
structure Config where
  variant : Variant
  /-- SPURIOUS_READS (R72, D12): the W65C802 reads the partly formed address when indexing crosses a page. -/
  spuriousReads : Bool
  blockMoveFinalC : FinalC
  decimalAlu : DecimalAlu
deriving DecidableEq, Repr

/-- The W65C816 with the spec's defaults (D11 to D14). DESIGN CHOICE, unsafe: notes/assumptions/5. -/
def Config.default : Config :=
  { variant := .w65c816, spuriousReads := false, blockMoveFinalC := .ffff, decimalAlu := .adopted }

/-- RESET_UNSPECIFIED (D15, U9): what reset leaves in the state it does not initialise. -/
structure ResetUnspecified where
  c : Word
  xl : Byte
  yl : Byte
  sl : Byte
  n : Bool
  v : Bool
  z : Bool
  carry : Bool
deriving DecidableEq, Repr, Inhabited

/-- The free values a RES- reset of a running machine leaves, one for each reset (R450 step 2, U9).
Nothing is known of them. Safe: notes/assumptions/2. -/
opaque Config.resetDraw : Nat → ResetUnspecified

/-- The free result, carry and V of decimal arithmetic where DECIMAL_ALU is not the adopted
algorithm (U1). Arguments: accumulator, operand as the adder gets it, carry in, 16 bits wide,
subtraction. Nothing is known of it. Safe: notes/assumptions/8. -/
opaque Config.decimalFree (a m : Word) (cin wide sub : Bool) : Word × Bool × Bool

/-- The free values of the labels an assembler cannot locate, which a linker gives (R102). Nothing is known of
them. Safe: notes/assumptions/36. -/
opaque Config.externalValue : List Char → BitVec 32

end Sys2Proof
end

