-- ==== Sys2Proof/Machine/Memory.lean ====
section
/-!
DEFINITION. Memory as plain data (20_memory.md R60 to R62): a list of (physical address, byte) cells
in one canonical form, addresses strictly rising and no cell equal to what an unlisted address reads
as, so that equal memories are equal lists; and the writes that reach it, the processor's and the platform's.
-/

namespace Sys2Proof.Machine

/-- The cells of memory that do not hold what an unlisted address reads as. -/
abbrev Memory := List Host.Cell

/-- What an address that no cell lists reads as. The spec leaves memory's contents to the platform
(D1). DESIGN CHOICE, unsafe: notes/assumptions/3. -/
def Memory.unlisted : Byte := 0x00

/-- The byte at an address. -/
def Memory.read : Memory → Nat → Byte
  | [], _ => Memory.unlisted
  | (k, b) :: rest, a => if k = a then b else if a < k then Memory.unlisted else Memory.read rest a

/-- Writes one byte and keeps the canonical form: writing what an unlisted address reads as removes
the cell. (The cells dropped behind it are none in a canonical list; dropping them makes a read after
a write right in every list.) -/
def Memory.write : Memory → Nat → Byte → Memory
  | [], a, b => if b = Memory.unlisted then [] else [(a, b)]
  | (k, v) :: rest, a, b =>
    if k < a then (k, v) :: Memory.write rest a b
    else
      let tail := if k = a then rest.dropWhile (fun cell => decide (cell.1 ≤ a)) else (k, v) :: rest
      if b = Memory.unlisted then tail else (a, b) :: tail

/-- The canonical form of the cells from a lowest allowed address on. -/
def Memory.wfFrom : Nat → Memory → Bool
  | _, [] => true
  | low, (k, b) :: rest => decide (low ≤ k) && decide (b ≠ Memory.unlisted) && Memory.wfFrom (k + 1) rest

/-- The canonical form: addresses strictly rising, no cell holding the unlisted value. -/
def Memory.wf (m : Memory) : Bool := Memory.wfFrom 0 m

/-- Every listed address lies below a bound: the end of the address space (R61). -/
def Memory.below (bound : Nat) (m : Memory) : Bool := m.all fun cell => decide (cell.1 < bound)

/-! ### The platform's part of the map (R62, D1) -/

/-- Addresses from `lo` to `hi`, both ends in it. -/
structure AddressRange where
  lo : Nat
  hi : Nat
deriving DecidableEq, Repr

/-- An address lies in one of the ranges. -/
def inRanges (l : List AddressRange) (a : Nat) : Bool := l.any fun r => decide (r.lo ≤ a) && decide (a ≤ r.hi)

/-- `Bus.write` (R62, D1): a byte of RAM is written; where the platform owns the address, as it does ROM and
device registers, the byte there stays what the platform set. notes/assumptions/4. -/
def Memory.put (owned : List AddressRange) (m : Memory) (a : Nat) (b : Byte) : Memory :=
  if inRanges owned a then m else m.write a b

/-- Bytes the platform sets, in order: what its devices answer from now on, what another bus master has
written (R62, D1, D17). A cell outside the address space sets nothing. -/
def Memory.setAll (bound : Nat) (m : Memory) : List Host.Cell → Memory
  | [] => m
  | cell :: rest => Memory.setAll bound (if cell.1 < bound then m.write cell.1 cell.2 else m) rest

/-- The two bytes at `a` and `a + 1` as a 16-bit value, low byte first (R63). -/
def Memory.word (m : Memory) (a : Nat) : Word := m.read (a + 1) ++ m.read a

end Sys2Proof.Machine
end

