-- ==== Sys2Proof/Machine/State.lean ====
section
/-!
DEFINITION. The state of the machine as plain data: every register, flag, latch, input level and
hidden bit of 10_state.md (R20 to R40), memory, and the model's own fields (the parameters, the bus
record of a step, what the platform will do, the counter of free values), with the state after reset.
-/

namespace Sys2Proof.Machine

/-- What a bus access is (R68, R69, R72, R440). Cycles that access nothing are not recorded (D9). -/
inductive BusKind where
  /-- An opcode fetch (VDA = VPA = 1; SYNC). -/
  | opcode
  /-- The fetch of an operand byte of the instruction stream (VPA). -/
  | operand
  /-- A data or stack read (VDA). -/
  | read
  /-- The read of a byte of a pointer: of an address being formed or of the target of a jump (VDA). -/
  | pointer
  /-- A data or stack write (VDA, R/W- low). -/
  | write
  /-- The write of the unmodified byte in the modify cycle of a read-modify-write with E = 1 (R69). -/
  | modify
  /-- A read of a vector byte (VP- low). -/
  | vector
  /-- The extra read of a partly formed address (R72, SPURIOUS_READS). -/
  | spurious
deriving DecidableEq, Repr

/-- One byte access on the bus: what it is, the physical address, the byte, and whether it belongs to
a read-modify-write of memory (ML- low, R76, R180). -/
structure BusAccess where
  kind : BusKind
  addr : Nat
  data : Byte
  lock : Bool
deriving DecidableEq, Repr

/-- A bus access that drives R/W- low. -/
def isWrite : BusKind → Bool
  | .write => true
  | .modify => true
  | .opcode => false
  | .operand => false
  | .read => false
  | .pointer => false
  | .vector => false
  | .spurious => false

/-- What the platform puts on the bus in one read access of a step: the kind and the physical address tell the
access apart from every other read of that step (R62, R68, D1). -/
structure Answer where
  kind : BusKind
  addr : Nat
  data : Byte
deriving DecidableEq, Repr

/-- How the platform asserts ABORT- apart from an address it rejects (R420, R421, D2, D5). -/
inductive AbortInput where
  | none
  /-- A pulse presented at the boundary: the latch is set before the boundary's interrupt test. -/
  | boundary
  /-- Asserted during what the machine does next, no later than its last abortable cycle. -/
  | early
  /-- Asserted during what the machine does next, after the cycles that R421 names. -/
  | late
deriving DecidableEq, Repr

/-- A range of physical addresses, both ends in it, and the kinds of access to them that external hardware answers
with ABORT-, the flag of D5; and whether it blocks the writes it answers so, as R420 expects of it. -/
structure AbortRange where
  lo : Nat
  hi : Nat
  kinds : List BusKind
  blocks : Bool
deriving DecidableEq, Repr

/-- What the platform presents at one step boundary (D2): the levels of RES-, IRQ- and RDY-forced-high,
whether an edge of NMI- or SO- or a pulse of ABORT- has occurred, the bytes it sets in the address space (what
its ROM and devices answer from now on, what other bus masters have written), what its devices answer to single
accesses of this step (R62, D1, D17), and, where they change, the accesses that it answers with ABORT- from now on
(R420, D5). -/
structure Inputs where
  resLow : Bool
  irqLow : Bool
  rdyForcedHigh : Bool
  nmiEdge : Bool
  soEdge : Bool
  abort : AbortInput
  sets : List Host.Cell
  answers : List Answer
  abortRanges : Option (List AbortRange)
deriving DecidableEq, Repr

/-- The state of the machine (10_state.md). -/
structure State where
  /-- The parameters of the machine (R6); the model's own field, never changed. -/
  cfg : Config
  /-- The accumulator C = B : A (R20). -/
  c : Word
  /-- The index register X = XH : XL (R21). -/
  x : Word
  /-- The index register Y = YH : YL (R21). -/
  y : Word
  /-- The stack pointer S = SH : SL (R22). -/
  sp : Word
  /-- The Direct register D (R23). -/
  d : Word
  /-- The program counter (R26). -/
  pc : Word
  /-- The Data Bank register (R28). -/
  dbr : Byte
  /-- The Program Bank register (R27). -/
  pbr : Byte
  /-- The Processor Status register N V M X D I Z C, bit 7 to bit 0 (R29). -/
  p : Byte
  /-- The Emulation bit, 1 = Emulation mode (R30). -/
  e : Bool
  /-- The processor executed WAI and waits (R38). -/
  waiting : Bool
  /-- The processor executed STP (R38). -/
  stopped : Bool
  /-- The latched edge of NMI- (R38). -/
  nmiPending : Bool
  /-- The ABORT- internal latch (R38). -/
  abortPending : Bool
  /-- RES- is low (R38, res_line). -/
  resLow : Bool
  /-- IRQ- is low (R38, irq_line). -/
  irqLow : Bool
  /-- The platform forces RDY high (R435, D16). -/
  rdyForcedHigh : Bool
  /-- RES- has been low and the reset sequence has not run yet (R403 step 1, R450). -/
  inReset : Bool
  /-- The address space (R37, R60). -/
  mem : Memory
  /-- The bus accesses of the step just made, oldest first (D1, R68); the model's own field. -/
  bus : List BusAccess
  /-- What the platform presents at the coming boundaries (D2); the model's own field. -/
  inputs : List Inputs
  /-- The addresses whose bytes the platform alone sets: ROM and device registers (R62, D1); the model's own
  field. -/
  owned : List AddressRange
  /-- What the platform answers to single reads of its addresses in this step (R62, D1); the model's own
  field. -/
  answers : List Answer
  /-- The accesses external hardware answers with ABORT- as things stand (D5); the model's own field. -/
  abortRanges : List AbortRange
  /-- How many free values have been drawn (D15); the model's own field. -/
  draws : Nat
deriving DecidableEq, Repr

/-- Why the machine stops. The W65C816 has no fault (R12, R400), so only the decoder's own error is
here. -/
inductive Fault where
  /-- The four bytes at PBR:PC decode to nothing. Raised by `runInstr` when `decode` answers an error,
  which it never does on four bytes, every opcode being assigned (R90, R97). Safe. -/
  | undecodable
deriving DecidableEq, Repr

/-- Why the model has no meaning for an instruction. -/
inductive Refusal where
  /-- `exec`'s arm for an instruction without a meaning; no arm answers it. Safe. -/
  | notModelled (mnemonic : String)
deriving DecidableEq, Repr

/-- The state right after reset with given values for what reset does not initialise (R40, R450):
Emulation mode, 8-bit registers, interrupts masked, binary arithmetic, the program counter at the
address in 00FFFC,D. -/
def State.resetWith (cfg : Config) (mem : Memory) (u : ResetUnspecified) : State :=
  { cfg := cfg
    c := u.c
    x := 0x00#8 ++ u.xl
    y := 0x00#8 ++ u.yl
    sp := 0x01#8 ++ u.sl
    d := 0x0000
    pc := mem.word 0xFFFC
    dbr := 0x00
    pbr := 0x00
    p := BitVec.ofBool u.n ++ BitVec.ofBool u.v ++ 0b1101#4 ++ BitVec.ofBool u.z ++ BitVec.ofBool u.carry
    e := true
    waiting := false
    stopped := false
    nmiPending := false
    abortPending := false
    resLow := false
    irqLow := false
    rdyForcedHigh := false
    inReset := false
    mem := mem
    bus := []
    inputs := []
    owned := []
    answers := []
    abortRanges := []
    draws := 0 }

/-- The values `State.reset` has where the spec gives none: those the spec's own trace P1 and vector
RS1 show (95_test_vectors.md). DESIGN CHOICE, unsafe: notes/assumptions/1. -/
def resetChoice : ResetUnspecified :=
  { c := 0xA5A5, xl := 0x34, yl := 0xFF, sl := 0x77, n := true, v := true, z := true, carry := true }

/-- The machine right after reset: the W65C816, memory with nothing listed and all of it RAM, no event
coming. -/
def State.reset : State := State.resetWith Config.default [] resetChoice

end Sys2Proof.Machine
end

