-- ==== Sys2Proof/Machine/Flags.lean ====
section
/-!
DEFINITION. The flags of P (10_state.md R29), the operation widths (00_scope.md R10) and SetNZ (R13).
An operand of either width is carried in 16 bits; an 8-bit one has a high byte of 0.
-/

namespace Sys2Proof.Machine

/-- The flags of the Processor Status register (R29). -/
inductive Flag where
  | n
  | v
  | m
  | x
  | d
  | i
  | z
  | c
deriving DecidableEq, Repr

/-- The flag's bit number in P (R9, R29). -/
def flagBit : Flag → Nat
  | .n => 7
  | .v => 6
  | .m => 5
  | .x => 4
  | .d => 3
  | .i => 2
  | .z => 1
  | .c => 0

/-- A flag of a status byte. -/
def getFlag (p : Byte) (f : Flag) : Bool := p.getLsbD (flagBit f)

/-- A status byte with one flag set to a value. -/
def putFlag (p : Byte) (f : Flag) (b : Bool) : Byte :=
  if b then p ||| BitVec.twoPow 8 (flagBit f) else p &&& ~~~BitVec.twoPow 8 (flagBit f)

/-- The width of an operation: 8 or 16 bits (R10). -/
inductive Width where
  | w8
  | w16
deriving DecidableEq, Repr

/-- The width a width flag selects: 8 bits when it is 1 (R10). -/
def flagWidth (narrow : Bool) : Width := if narrow then .w8 else .w16

/-- The number of bits of a width. -/
def widthBits : Width → Nat
  | .w8 => 8
  | .w16 => 16

/-- The number of bytes of a width. -/
def widthBytes : Width → Nat
  | .w8 => 1
  | .w16 => 2

/-- A value reduced modulo 2^w. -/
def trunc : Width → Word → Word
  | .w8, v => 0x00#8 ++ loByte v
  | .w16, v => v

/-- The top bit of a value at a width: bit 7 or bit 15 (R13). -/
def topBit (w : Width) (v : Word) : Bool := v.getLsbD (widthBits w - 1)

/-- The bit below the top bit: bit 6 or bit 14 (R190). -/
def nextBit (w : Width) (v : Word) : Bool := v.getLsbD (widthBits w - 2)

/-- `SetNZ(r, w)` (R13): N from the top bit of the result, Z from its being 0. -/
def setNZ (w : Width) (r : Word) (p : Byte) : Byte :=
  putFlag (putFlag p .n (topBit w r)) .z (trunc w r == 0)

/-- The accumulator-and-memory width `mw` (R10). -/
def State.mw (s : State) : Width := flagWidth (getFlag s.p .m)

/-- The index width `xw` (R10). -/
def State.xw (s : State) : Width := flagWidth (getFlag s.p .x)

/-- `Acc`, the accumulator at width `mw` (R10, R20). -/
def State.acc (s : State) : Word := trunc s.mw s.c

/-- A write of `Acc`: at 8 bits B keeps its value (R20). -/
def insertAcc (w : Width) (c v : Word) : Word :=
  match w with
  | .w8 => mkWord (hiByte c) (loByte v)
  | .w16 => v

/-- P as `SetNZ` leaves it. -/
def State.setNZ (s : State) (w : Width) (r : Word) : State :=
  { s with p := Sys2Proof.Machine.setNZ w r s.p }

/-- P with one flag set to a value. -/
def State.setFlag (s : State) (f : Flag) (b : Bool) : State := { s with p := putFlag s.p f b }

/-- The accumulator written at a width (R20). -/
def State.setAcc (s : State) (w : Width) (v : Word) : State := { s with c := insertAcc w s.c v }

/-- X written at a width: at 8 bits XH is 00 (R21). -/
def State.setX (s : State) (w : Width) (v : Word) : State := { s with x := trunc w v }

/-- Y written at a width: at 8 bits YH is 00 (R21). -/
def State.setY (s : State) (w : Width) (v : Word) : State := { s with y := trunc w v }

/-- A write of the whole of P with its normalisation (R31, R339, R340): in Emulation mode M and X are
1, and where X is 1 the index high bytes are forced to 00. -/
def State.loadP (s : State) (v : Byte) : State :=
  let p := if s.e then putFlag (putFlag v .m true) .x true else v
  let w := flagWidth (getFlag p .x)
  { s with p := p, x := trunc w s.x, y := trunc w s.y }

end Sys2Proof.Machine
end

