-- ==== Sys2Proof/Machine/Alu.lean ====
section
/-!
DEFINITION. The arithmetic of 42_arithmetic_logic.md: the binary and the decimal adder (R183), the
comparison (R187), and the one-operand operations of the read-modify-write instructions with the
flags they set (R191, R192, R197 to R202).
-/

namespace Sys2Proof.Machine

/-- What the adder answers: the result, the carry out and the overflow (R183). -/
structure AddResult where
  r : Word
  carry : Bool
  v : Bool
deriving DecidableEq, Repr

/-- The complement of a value at a width (R182). -/
def complement (w : Width) (m : Word) : Word := trunc w (~~~m)

/-- Signed overflow: operands of equal sign and a result of the other sign (R183, U2). -/
def overflow (w : Width) (a m r : Word) : Bool :=
  topBit w a == topBit w m && topBit w r != topBit w a

/-- Binary addition with carry, computed exactly and then narrowed (R183). -/
def addBinary (w : Width) (a m : Word) (cin : Bool) : AddResult :=
  let s := a.toNat + m.toNat + cin.toNat
  let r := trunc w (BitVec.ofNat 16 s)
  { r := r, carry := decide (2 ^ widthBits w ≤ s), v := overflow w a m r }

/-- One decimal digit of a sum `t` of two digits and a carry: the digit and the carry out (R183). -/
def decimalDigit (sub : Bool) (t : Nat) : Nat × Bool :=
  if sub then (if t ≤ 15 then (t + 10) % 16 else t % 16, decide (15 < t))
  else let t' := if 9 < t then t + 6 else t
    (t' % 16, decide (15 < t'))

/-- The digits of a decimal sum from the least significant on, and the carry out (R183). -/
def decimalDigits (sub : Bool) : Nat → Nat → Nat → Bool → Nat × Bool
  | 0, _, _, c => (0, c)
  | k + 1, a, m, c =>
    let digit := decimalDigit sub (a % 16 + m % 16 + c.toNat)
    let rest := decimalDigits sub k (a / 16) (m / 16) digit.2
    (digit.1 + 16 * rest.1, rest.2)

/-- The number of 4-bit digits of a width. -/
def widthDigits (w : Width) : Nat := widthBits w / 4

/-- The unadjusted sum of the top digits, from which V is taken in decimal mode (R183). -/
def decimalTop (sub : Bool) (w : Width) (a m : Nat) (cin : Bool) : Nat :=
  let k := widthDigits w - 1
  a / 16 ^ k % 16 + m / 16 ^ k % 16 + (decimalDigits sub k a m cin).2.toNat

/-- The decimal adder of R183, the default of DECIMAL_ALU (U1). For a subtraction `m` is already the
complement. -/
def addDecimal (sub : Bool) (w : Width) (a m : Word) (cin : Bool) : AddResult :=
  let sum := decimalDigits sub (widthDigits w) a.toNat m.toNat cin
  { r := BitVec.ofNat 16 sum.1
    carry := sum.2
    v := topBit w a == topBit w m && (decimalTop sub w a.toNat m.toNat cin).testBit 3 != topBit w a }

/-- Every one of the `k` low digits is 0 to 9. -/
def validBcd : Nat → Nat → Bool
  | 0, _ => true
  | k + 1, a => decide (a % 16 ≤ 9) && validBcd k (a / 16)

/-- The value of `k` packed BCD digits. -/
def bcdValue : Nat → Nat → Nat
  | 0, _ => 0
  | k + 1, a => a % 16 + 10 * bcdValue k (a / 16)

/-- Decimal arithmetic where DECIMAL_ALU is not the adopted algorithm (U1): for valid BCD the result
and the carry of any correct BCD adder and a free V, for other operands free values throughout. -/
def addDecimalFree (sub : Bool) (w : Width) (a m : Word) (cin : Bool) : AddResult :=
  let free := Config.decimalFree a m cin (w == .w16) sub
  let k := widthDigits w
  let m0 := if sub then complement w m else m
  if validBcd k a.toNat && validBcd k m0.toNat then
    { addDecimal sub w a m cin with v := free.2.2 }
  else { r := trunc w free.1, carry := free.2.1, v := free.2.2 }

/-- `AddWithCarry(a, m, cin, w, sub)` (R183), binary or decimal by P.D. -/
def addWithCarry (alu : DecimalAlu) (dec sub : Bool) (w : Width) (a m : Word) (cin : Bool) : AddResult :=
  if dec then
    match alu with
    | .adopted => addDecimal sub w a m cin
    | .unspecified => addDecimalFree sub w a m cin
  else addBinary w a m cin

/-- The flags ADC and SBC set from the adder's answer (R181 to R183). -/
def addFlags (w : Width) (res : AddResult) (p : Byte) : Byte :=
  putFlag (putFlag (setNZ w res.r p) .v res.v) .c res.carry

/-- The flags of a comparison of a register with memory (R187 to R189): N and Z from the difference,
C from unsigned `reg ≥ m`. -/
def compareFlags (w : Width) (reg m : Word) (p : Byte) : Byte :=
  putFlag (setNZ w (trunc w (reg - m)) p) .c (decide (m.toNat ≤ reg.toNat))

/-- A one-operand operation: from the width, the old operand and P to the new operand and P. -/
abbrev UnaryOp := Width → Word → Byte → Word × Byte

/-- INC (R191): the operand plus 1 modulo 2^w. -/
def incOp : UnaryOp := fun w old p => let r := trunc w (old + 1); (r, setNZ w r p)

/-- DEC (R192): the operand minus 1 modulo 2^w. -/
def decOp : UnaryOp := fun w old p => let r := trunc w (old - 1); (r, setNZ w r p)

/-- ASL (R197): one bit left, 0 into bit 0, the top bit into C. -/
def aslOp : UnaryOp := fun w old p =>
  let r := trunc w (old <<< 1)
  (r, putFlag (setNZ w r p) .c (topBit w old))

/-- LSR (R198): one bit right, 0 into the top bit, bit 0 into C. -/
def lsrOp : UnaryOp := fun w old p =>
  let r := trunc w old >>> 1
  (r, putFlag (setNZ w r p) .c (old.getLsbD 0))

/-- ROL (R199): one bit left, the old C into bit 0, the top bit into C. -/
def rolOp : UnaryOp := fun w old p =>
  let r := trunc w (old <<< 1) ||| BitVec.ofNat 16 (getFlag p .c).toNat
  (r, putFlag (setNZ w r p) .c (topBit w old))

/-- ROR (R200): one bit right, the old C into the top bit, bit 0 into C. -/
def rorOp : UnaryOp := fun w old p =>
  let r := (trunc w old >>> 1) ||| (BitVec.ofNat 16 (getFlag p .c).toNat <<< (widthBits w - 1))
  (r, putFlag (setNZ w r p) .c (old.getLsbD 0))

/-- TSB (R201): the accumulator's bits set; Z from the AND with the operand before. -/
def tsbOp (acc : Word) : UnaryOp := fun w old p =>
  (trunc w (old ||| acc), putFlag p .z (trunc w (acc &&& old) == 0))

/-- TRB (R202): the accumulator's bits cleared; Z from the AND with the operand before. -/
def trbOp (acc : Word) : UnaryOp := fun w old p =>
  (trunc w (old &&& ~~~acc), putFlag p .z (trunc w (acc &&& old) == 0))

end Sys2Proof.Machine
end

