-- ==== Sys2Proof/Machine/Ops.lean ====
section
/-!
DEFINITION. The named operations over memory, the bus record and the registers: physical addresses
(20_memory.md R61), multi-byte accesses (R63 to R68), pushes and pulls (44_stack.md R260 to R263),
taking an interrupt (60_exceptions.md R401, R410 to R414) and returning from one (48_system.md R362).
Reads are plain functions of the state; what they put on the bus is recorded beside them.
-/

namespace Sys2Proof.Machine

/-! ### Addresses -/

/-- `Phys(ea)` (R61): the effective address on the W65C816, its offset on the W65C802. -/
def phys (v : Variant) (ea : Addr) : Nat :=
  match v with
  | .w65c816 => ea.toNat
  | .w65c802 => (offOf ea).toNat

/-- The number of physical addresses (R37). -/
def physSize : Variant → Nat
  | .w65c816 => 2 ^ 24
  | .w65c802 => 2 ^ 16

/-- How the address of the next byte of an access is formed (R64 to R67). -/
inductive Wrap where
  /-- `Read24`, `Write24`: a 24-bit sum that carries into the bank (R64). -/
  | linear
  /-- `ReadBank0`, `WriteBank0`, `ReadProg`: a 16-bit sum inside the bank (R65, R67). -/
  | bank
  /-- `ReadPage`: an 8-bit sum inside the 256-byte page (R66). -/
  | page
deriving DecidableEq, Repr

/-- The address of byte `i` of an access at `ea` (R64 to R67). -/
def byteAddr (w : Wrap) (ea : Addr) (i : Nat) : Addr :=
  match w with
  | .linear => ea + BitVec.ofNat 24 i
  | .bank => mkAddr (bankOf ea) (offOf ea + BitVec.ofNat 16 i)
  | .page => mkAddr (bankOf ea) (mkWord (hiByte (offOf ea)) (loByte (offOf ea) + BitVec.ofNat 8 i))

/-! ### Reads -/

/-- `Bus.read` in an access of a kind (R62, D1): where the platform owns the address, what it answers to this
access, or else the byte it has set there; elsewhere the byte in RAM. No two reads of one step have the same kind
and the same address, so each access has an answer of its own. notes/assumptions/4. -/
def State.busRead (s : State) (k : BusKind) (a : Nat) : Byte :=
  if inRanges s.owned a then
    ((s.answers.find? fun r => r.kind == k && r.addr == a).map Answer.data).getD (s.mem.read a)
  else s.mem.read a

/-- The byte `Bus.read(Phys(ea))` answers in an access of a kind. -/
def State.peek (s : State) (k : BusKind) (ea : Addr) : Byte := s.busRead k (phys s.cfg.variant ea)

/-- A 16-bit read, low byte at `ea` (R63). -/
def State.peek16 (s : State) (k : BusKind) (w : Wrap) (ea : Addr) : Word :=
  mkWord (s.peek k (byteAddr w ea 1)) (s.peek k (byteAddr w ea 0))

/-- A 24-bit read: low, high, bank (R63). -/
def State.peek24 (s : State) (k : BusKind) (w : Wrap) (ea : Addr) : Addr :=
  mkAddr (s.peek k (byteAddr w ea 2)) (s.peek16 k w ea)

/-- A read of data at a width; one byte is zero-extended. -/
def State.peekW (s : State) (n : Width) (w : Wrap) (ea : Addr) : Word :=
  match n with
  | .w8 => 0x00#8 ++ s.peek .read (byteAddr w ea 0)
  | .w16 => s.peek16 .read w ea

/-- The record of one read access. -/
def State.readAccess (s : State) (k : BusKind) (lock : Bool) (ea : Addr) : BusAccess :=
  { kind := k, addr := phys s.cfg.variant ea, data := s.peek k ea, lock := lock }

/-- The records of an `n`-byte read, ascending, low byte first (R68 (a)). -/
def State.readAccesses (s : State) (k : BusKind) (lock : Bool) (w : Wrap) (ea : Addr) (n : Nat) :
    List BusAccess :=
  (List.range n).map fun i => s.readAccess k lock (byteAddr w ea i)

/-- Puts accesses on the bus record. -/
def State.note (s : State) (l : List BusAccess) : State := { s with bus := s.bus ++ l }

/-! ### Writes -/

/-- `Bus.write(Phys(ea), b)` (R62): on the bus in any case; it changes no byte that the platform owns. -/
def State.write8 (s : State) (k : BusKind) (lock : Bool) (ea : Addr) (b : Byte) : State :=
  { s with
    mem := s.mem.put s.owned (phys s.cfg.variant ea) b
    bus := s.bus ++ [{ kind := k, addr := phys s.cfg.variant ea, data := b, lock := lock }] }

/-- A store: the low byte, then at 16 bits the high byte (R68 (b), R160). -/
def State.storeW (s : State) (n : Width) (w : Wrap) (ea : Addr) (v : Word) : State :=
  match n with
  | .w8 => s.write8 .write false (byteAddr w ea 0) (loByte v)
  | .w16 =>
    (s.write8 .write false (byteAddr w ea 0) (loByte v)).write8 .write false (byteAddr w ea 1) (hiByte v)

/-- The write of a read-modify-write: at 16 bits the high byte first (R68 (c)). -/
def State.writeBackW (s : State) (n : Width) (w : Wrap) (ea : Addr) (v : Word) : State :=
  match n with
  | .w8 => s.write8 .write true (byteAddr w ea 0) (loByte v)
  | .w16 =>
    (s.write8 .write true (byteAddr w ea 1) (hiByte v)).write8 .write true (byteAddr w ea 0) (loByte v)

/-! ### The program counter -/

/-- The program counter moved past `n` bytes, inside the program bank (R26, R312). -/
def State.advance (s : State) (n : Nat) : State := { s with pc := s.pc + BitVec.ofNat 16 n }

/-- `PC <- t` (R12). -/
def State.setPc (s : State) (t : Word) : State := { s with pc := t }

/-- The address of the `k`-th byte of the instruction at PBR:PC (R67, R90). -/
def State.codeAddr (s : State) (k : Nat) : Addr := mkAddr s.pbr (s.pc + BitVec.ofNat 16 k)

/-- An operand byte that is fetched only after some of the instruction's pushes (R307, R308): what the
decoder read, unless a push has changed the byte since. `before` is the state before the pushes. -/
def State.lateByte (s before : State) (ea : Addr) (decoded : Byte) : Byte :=
  if s.peek .operand ea = before.peek .operand ea then decoded else s.peek .operand ea

/-! ### The stack (R260 to R263) -/

/-- The address of a byte of the stack, always in bank 0 (R22). -/
def stackAddr (off : Word) : Addr := mkAddr 0x00 off

/-- S decremented: 16 bits in Native mode, SL alone with SH = 01 in Emulation mode (R260). -/
def spDown (e : Bool) (sp : Word) : Word := if e then mkWord 0x01 (loByte sp - 1) else sp - 1

/-- S incremented, in the same way (R261). -/
def spUp (e : Bool) (sp : Word) : Word := if e then mkWord 0x01 (loByte sp + 1) else sp + 1

/-- `Push8(v)` (R260). -/
def State.push8 (s : State) (b : Byte) : State :=
  { s.write8 .write false (stackAddr s.sp) b with sp := spDown s.e s.sp }

/-- `Push16(v)`: the high byte first (R262). -/
def State.push16 (s : State) (v : Word) : State := (s.push8 (hiByte v)).push8 (loByte v)

/-- A push at a width (R265 to R267). -/
def State.pushW (s : State) (n : Width) (v : Word) : State :=
  match n with
  | .w8 => s.push8 (loByte v)
  | .w16 => s.push16 v

/-- The state `Pull8()` leaves: S incremented, the read on the bus (R261). -/
def State.pull8 (s : State) : State :=
  { s with
    sp := spUp s.e s.sp
    bus := s.bus ++ [s.readAccess .read false (stackAddr (spUp s.e s.sp))] }

/-- The byte `Pull8()` answers (R261). -/
def State.pulled8 (s : State) : Byte := s.peek .read (stackAddr (spUp s.e s.sp))

/-- The state `Pull16()` leaves (R262). -/
def State.pull16 (s : State) : State := s.pull8.pull8

/-- The value `Pull16()` answers: the low byte is pulled first (R262). -/
def State.pulled16 (s : State) : Word := mkWord s.pull8.pulled8 s.pulled8

/-- The state a pull at a width leaves (R272 to R274). -/
def State.pullW (s : State) (n : Width) : State :=
  match n with
  | .w8 => s.pull8
  | .w16 => s.pull16

/-- The value a pull at a width answers; one byte is zero-extended. -/
def State.pulledW (s : State) (n : Width) : Word :=
  match n with
  | .w8 => 0x00#8 ++ s.pulled8
  | .w16 => s.pulled16

/-- `PushN8(v)`: the stack pointer moves in 16 bits in both modes (R263). -/
def State.pushN8 (s : State) (b : Byte) : State :=
  { s.write8 .write false (stackAddr s.sp) b with sp := s.sp - 1 }

/-- `PushN16(v)`: the high byte first (R263). -/
def State.pushN16 (s : State) (v : Word) : State := (s.pushN8 (hiByte v)).pushN8 (loByte v)

/-- The state `PullN8()` leaves (R263). -/
def State.pullN8 (s : State) : State :=
  { s with sp := s.sp + 1, bus := s.bus ++ [s.readAccess .read false (stackAddr (s.sp + 1))] }

/-- The byte `PullN8()` answers (R263). -/
def State.pulledN8 (s : State) : Byte := s.peek .read (stackAddr (s.sp + 1))

/-- SH restored to 01 when an instruction with 16-bit stack arithmetic ends in Emulation mode (R263, D7). -/
def State.fixSp (s : State) : State :=
  { s with sp := if s.e then mkWord 0x01 (loByte s.sp) else s.sp }

/-! ### Taking an interrupt (R401, R410 to R414) -/

/-- The sources of an interrupt sequence other than reset (R400). -/
inductive Source where
  | abort
  | nmi
  | irq
  | brk
  | cop
deriving DecidableEq, Repr

/-- The vector of a source in Emulation and in Native mode, an offset in bank 0 (R401). -/
def vectorOf : Source → Bool → Word
  | .irq, true => 0xFFFE
  | .brk, true => 0xFFFE
  | .nmi, true => 0xFFFA
  | .abort, true => 0xFFF8
  | .cop, true => 0xFFF4
  | .irq, false => 0xFFEE
  | .brk, false => 0xFFE6
  | .nmi, false => 0xFFEA
  | .abort, false => 0xFFE8
  | .cop, false => 0xFFE4

/-- The vector of reset, always in Emulation mode (R401). -/
def resetVector : Word := 0xFFFC

/-- BRK and COP are the software interrupts (R400). -/
def isSoftware : Source → Bool
  | .brk => true
  | .cop => true
  | .abort => false
  | .nmi => false
  | .irq => false

/-- The stacked status byte `Pst` (R412): P in Native mode; in Emulation mode bit 5 is 1 and bit 4 is
the Break flag, 1 for a software interrupt. -/
def stackedP (src : Source) (e : Bool) (p : Byte) : Byte :=
  if e then putFlag (putFlag p .m true) .x (isSoftware src) else p

/-- PC loaded from a vector, both bytes read in bank 0, low byte first (R410 step 6). -/
def State.loadVector (s : State) (va : Word) : State :=
  let t := s.note (s.readAccesses .vector false .bank (mkAddr 0x00 va) 2)
  { t with pc := s.peek16 .vector .bank (mkAddr 0x00 va) }

/-- The pushes of the interrupt sequence: PBR in Native mode, the return address high byte first, the
status byte (R410 steps 2 to 4). -/
def State.pushFrame (s : State) (src : Source) (ret : Word) : State :=
  let s1 := if s.e then s else s.push8 s.pbr
  (s1.push16 ret).push8 (stackedP src s.e s.p)

/-- P, PBR and DBR after the pushes: I = 1, D = 0, PBR = 00, and in Emulation mode DBR = 00 (R410
step 5, R413, R414). -/
def State.enterHandler (s : State) : State :=
  { s with
    p := putFlag (putFlag s.p .i true) .d false
    pbr := 0x00
    dbr := if s.e then 0x00 else s.dbr }

/-- The interrupt sequence of R410 for a source and a return address. -/
def State.interrupt (s : State) (src : Source) (ret : Word) : State :=
  (s.pushFrame src ret).enterHandler.loadVector (vectorOf src s.e)

/-- RTI (R362): P is pulled and normalised, then PC, then in Native mode PBR. -/
def State.returnFromInterrupt (s : State) : State :=
  let s1 := s.pull8.loadP s.pulled8
  let s2 := s1.pull16.setPc s1.pulled16
  if s.e then s2 else { s2.pull8 with pbr := s2.pulled8 }

end Sys2Proof.Machine
end

