-- ==== Sys2Proof/Machine/Operands.lean ====
section
/-!
DEFINITION. The operand forms of 40_addressing_modes.md: for every addressing mode with a memory
operand the effective address, the helper that addresses its bytes, and the accesses made while
forming it; then loading, storing and read-modify-write through them (41_load_store.md R160,
42_arithmetic_logic.md R180).
-/

namespace Sys2Proof.Machine

/-- The addressing modes with an operand in memory, each with its instruction bytes (R123 to R141). -/
inductive MemMode where
  /-- `d` (R123). -/
  | dir (off : Byte)
  /-- `d,x` (R124). -/
  | dirX (off : Byte)
  /-- `d,y` (R124). -/
  | dirY (off : Byte)
  /-- `a` (R125). -/
  | abs (a : Word)
  /-- `a,x` (R129). -/
  | absX (a : Word)
  /-- `a,y` (R129). -/
  | absY (a : Word)
  /-- `al` (R126). -/
  | long (a : Addr)
  /-- `al,x` (R134). -/
  | longX (a : Addr)
  /-- `(d)` (R132). -/
  | dirInd (off : Byte)
  /-- `(d,x)` (R130). -/
  | dirXInd (off : Byte)
  /-- `(d),y` (R131). -/
  | dirIndY (off : Byte)
  /-- `[d]` (R133). -/
  | dirLong (off : Byte)
  /-- `[d],y` (R133). -/
  | dirLongY (off : Byte)
  /-- `d,s` (R140). -/
  | stk (off : Byte)
  /-- `(d,s),y` (R141). -/
  | stkIndY (off : Byte)
deriving DecidableEq, Repr

/-- An operand that is read: an immediate (R121) or a byte or word of memory. -/
inductive Operand where
  | imm (v : Imm)
  | mem (m : MemMode)
deriving DecidableEq, Repr

/-! ### Direct-page and stack-relative addresses -/

/-- In Emulation mode with DL = 00 direct addresses wrap inside the page (R122 (a)). -/
def State.pageWrap (s : State) : Bool := s.e && loByte s.d == 0x00

/-- `DirAddr(off, idx)` (R122). -/
def State.dirAddr (s : State) (off : Byte) (idx : Word) : Word :=
  if s.pageWrap then mkWord (hiByte s.d) (off + loByte idx) else s.d + off.setWidth 16 + idx

/-- How `DirPtr16` addresses its second byte (R122). -/
def State.ptrWrap (s : State) : Wrap := if s.pageWrap then .page else .bank

/-- The sum of S and a stack offset, 16 bits in both modes (R140). -/
def State.stackRel (s : State) (off : Byte) : Word := s.sp + off.setWidth 16

/-- A 16-bit value as an addend of a 24-bit sum; an index is never sign-extended (R120). -/
def zext24 (v : Word) : Addr := v.setWidth 24

/-! ### Effective addresses (R143) -/

/-- The helper that addresses the bytes of the operand (R143). -/
def operandWrap : MemMode → Wrap
  | .dir _ => .bank
  | .dirX _ => .bank
  | .dirY _ => .bank
  | .stk _ => .bank
  | .abs _ => .linear
  | .absX _ => .linear
  | .absY _ => .linear
  | .long _ => .linear
  | .longX _ => .linear
  | .dirInd _ => .linear
  | .dirXInd _ => .linear
  | .dirIndY _ => .linear
  | .dirLong _ => .linear
  | .dirLongY _ => .linear
  | .stkIndY _ => .linear

/-- The pointer a mode reads first: how its bytes are addressed, where it lies in bank 0, and how many
bytes it has (R122, R130 to R133, R141). -/
def State.pointerOf (s : State) : MemMode → Option (Wrap × Addr × Nat)
  | .dirInd off => some (s.ptrWrap, mkAddr 0x00 (s.dirAddr off 0), 2)
  | .dirXInd off => some (s.ptrWrap, mkAddr 0x00 (s.dirAddr off s.x), 2)
  | .dirIndY off => some (s.ptrWrap, mkAddr 0x00 (s.dirAddr off 0), 2)
  | .dirLong off => some (.bank, mkAddr 0x00 (s.dirAddr off 0), 3)
  | .dirLongY off => some (.bank, mkAddr 0x00 (s.dirAddr off 0), 3)
  | .stkIndY off => some (.bank, mkAddr 0x00 (s.stackRel off), 2)
  | .dir _ => none
  | .dirX _ => none
  | .dirY _ => none
  | .abs _ => none
  | .absX _ => none
  | .absY _ => none
  | .long _ => none
  | .longX _ => none
  | .stk _ => none

/-- The address before the final index is added, and that index (R123 to R141). -/
def State.baseIndex (s : State) : MemMode → Addr × Word
  | .dir off => (mkAddr 0x00 (s.dirAddr off 0), 0)
  | .dirX off => (mkAddr 0x00 (s.dirAddr off s.x), 0)
  | .dirY off => (mkAddr 0x00 (s.dirAddr off s.y), 0)
  | .abs a => (mkAddr s.dbr a, 0)
  | .absX a => (mkAddr s.dbr a, s.x)
  | .absY a => (mkAddr s.dbr a, s.y)
  | .long a => (a, 0)
  | .longX a => (a, s.x)
  | .dirInd off => (mkAddr s.dbr (s.peek16 .pointer s.ptrWrap (mkAddr 0x00 (s.dirAddr off 0))), 0)
  | .dirXInd off => (mkAddr s.dbr (s.peek16 .pointer s.ptrWrap (mkAddr 0x00 (s.dirAddr off s.x))), 0)
  | .dirIndY off => (mkAddr s.dbr (s.peek16 .pointer s.ptrWrap (mkAddr 0x00 (s.dirAddr off 0))), s.y)
  | .dirLong off => (s.peek24 .pointer .bank (mkAddr 0x00 (s.dirAddr off 0)), 0)
  | .dirLongY off => (s.peek24 .pointer .bank (mkAddr 0x00 (s.dirAddr off 0)), s.y)
  | .stk off => (mkAddr 0x00 (s.stackRel off), 0)
  | .stkIndY off => (mkAddr s.dbr (s.peek16 .pointer .bank (mkAddr 0x00 (s.stackRel off))), s.y)

/-- The effective address: the 24-bit sum of base and index (R123 to R141). -/
def State.ea (s : State) (m : MemMode) : Addr :=
  let b := s.baseIndex m
  b.1 + zext24 b.2

/-! ### Accesses made while the address is formed -/

/-- The pointer bytes, low to high, before any operand access (R145). -/
def State.pointerAccesses (s : State) (m : MemMode) : List BusAccess :=
  match s.pointerOf m with
  | some (w, a, n) => s.readAccesses .pointer false w a n
  | none => []

/-- The modes whose page crossing costs the extra read of an invalid address (R72, U8). -/
def indexedAcrossPage : MemMode → Bool
  | .absX _ => true
  | .absY _ => true
  | .dirIndY _ => true
  | .dir _ => false
  | .dirX _ => false
  | .dirY _ => false
  | .abs _ => false
  | .long _ => false
  | .longX _ => false
  | .dirInd _ => false
  | .dirXInd _ => false
  | .dirLong _ => false
  | .dirLongY _ => false
  | .stk _ => false
  | .stkIndY _ => false

/-- Adding the index leaves the page of the base. -/
def crossesPage (base : Addr) (idx : Word) : Bool :=
  (base + zext24 idx).extractLsb' 8 16 != base.extractLsb' 8 16

/-- The partly formed address: only the low byte of the sum, `bank : AAH : (AAL +8 index_low)` (U8). -/
def partialAddr (base : Addr) (idx : Word) : Addr :=
  mkAddr (bankOf base) (mkWord (hiByte (offOf base)) (loByte (offOf base) + loByte idx))

/-- The extra read of SPURIOUS_READS on the W65C802 (R72, D12). -/
def State.spuriousAccesses (s : State) (m : MemMode) : List BusAccess :=
  let b := s.baseIndex m
  if s.cfg.variant = .w65c802 ∧ s.cfg.spuriousReads = true ∧ indexedAcrossPage m = true
      ∧ crossesPage b.1 b.2 = true
  then [s.readAccess .spurious false (partialAddr b.1 b.2)] else []

/-- Every access made before the operand's own. -/
def State.formingAccesses (s : State) (m : MemMode) : List BusAccess :=
  s.pointerAccesses m ++ s.spuriousAccesses m

/-! ### Load, store, read-modify-write -/

/-- The value of an immediate. -/
def immValue : Imm → Word
  | .byte b => 0x00#8 ++ b
  | .word w => w

/-- `Load(m, n)`: the value (R121, R160). -/
def State.operandValue (s : State) (n : Width) : Operand → Word
  | .imm v => trunc n (immValue v)
  | .mem m => s.peekW n (operandWrap m) (s.ea m)

/-- `Load(m, n)`: the accesses (R68 (a), R145, R160). -/
def State.noteLoad (s : State) (n : Width) : Operand → State
  | .imm _ => s
  | .mem m =>
    s.note (s.formingAccesses m ++ s.readAccesses .read false (operandWrap m) (s.ea m) (widthBytes n))

/-- `Store(m, n, v)` (R160). -/
def State.store (s : State) (n : Width) (m : MemMode) (v : Word) : State :=
  (s.note (s.formingAccesses m)).storeW n (operandWrap m) (s.ea m) v

/-- The value a read-modify-write reads (R180). -/
def State.rmwOld (s : State) (m : MemMode) : Word := s.peekW s.mw (operandWrap m) (s.ea m)

/-- The reads of a read-modify-write and, with E = 1, the write of the unmodified byte (R69, R180). -/
def State.rmwFetch (s : State) (m : MemMode) : State :=
  let s1 := s.note (s.formingAccesses m ++
    s.readAccesses .read true (operandWrap m) (s.ea m) (widthBytes s.mw))
  if s.e then s1.write8 .modify true (byteAddr (operandWrap m) (s.ea m) 0) (loByte (s.rmwOld m)) else s1

/-- Read-modify-write on memory (R180): the address is computed once, the result written back to it,
P as the operation leaves it. -/
def State.rmw (s : State) (m : MemMode) (op : UnaryOp) : State :=
  let res := op s.mw (s.rmwOld m) s.p
  { (s.rmwFetch m).writeBackW s.mw (operandWrap m) (s.ea m) res.1 with p := res.2 }

/-- The same operation on the accumulator (R127). -/
def State.rmwAcc (s : State) (op : UnaryOp) : State :=
  let res := op s.mw s.acc s.p
  { s.setAcc s.mw res.1 with p := res.2 }

end Sys2Proof.Machine
end

