-- ==== Sys2Proof/Machine/Arithmetic.lean ====
section
/-!
DEFINITION. Arithmetic, logic, compare and bit test on an operand (42_arithmetic_logic.md): ADC, SBC,
AND, EOR, ORA, CMP, CPX, CPY, BIT.
-/

namespace Sys2Proof.Machine

/-- ADC and SBC (R181, R182): the adder's result to `Acc`, its flags to P. For SBC the operand is
complemented at the width. -/
def State.addTo (s : State) (sub : Bool) (o : Operand) : State :=
  let w := s.mw
  let v := s.operandValue w o
  let m := if sub then complement w v else v
  let res := addWithCarry s.cfg.decimalAlu (getFlag s.p .d) sub w s.acc m (getFlag s.p .c)
  { (s.noteLoad w o).setAcc w res.r with p := addFlags w res s.p }

/-- ADC (R181). -/
def State.adc (s : State) (o : Operand) : State := s.addTo false o

/-- SBC (R182). -/
def State.sbc (s : State) (o : Operand) : State := s.addTo true o

/-- The logical instructions: a bitwise operation of `Acc` and the operand to `Acc`, N and Z from it. -/
def State.logic (s : State) (f : Word → Word → Word) (o : Operand) : State :=
  let w := s.mw
  let r := f s.acc (s.operandValue w o)
  ((s.noteLoad w o).setAcc w r).setNZ w r

/-- AND (R184). -/
def State.and (s : State) (o : Operand) : State := s.logic (· &&& ·) o

/-- EOR (R185). -/
def State.eor (s : State) (o : Operand) : State := s.logic (· ^^^ ·) o

/-- ORA (R186). -/
def State.ora (s : State) (o : Operand) : State := s.logic (· ||| ·) o

/-- The comparisons: only N, Z and C change. -/
def State.compare (s : State) (w : Width) (reg : Word) (o : Operand) : State :=
  { s.noteLoad w o with p := compareFlags w (trunc w reg) (s.operandValue w o) s.p }

/-- CMP (R187). -/
def State.cmp (s : State) (o : Operand) : State := s.compare s.mw s.c o

/-- CPX (R188). -/
def State.cpx (s : State) (o : Operand) : State := s.compare s.xw s.x o

/-- CPY (R189). -/
def State.cpy (s : State) (o : Operand) : State := s.compare s.xw s.y o

/-- Z of BIT: the AND of `Acc` and the operand (R190). -/
def bitZero (acc v : Word) (p : Byte) : Byte := putFlag p .z (acc &&& v == 0)

/-- BIT immediate (R190): Z only. -/
def State.bitImm (s : State) (v : Imm) : State :=
  { s with p := bitZero s.acc (s.operandValue s.mw (.imm v)) s.p }

/-- BIT on memory (R190): Z from the AND, N and V from the two top bits of the operand. -/
def State.bitMem (s : State) (m : MemMode) : State :=
  let w := s.mw
  let v := s.operandValue w (.mem m)
  { s.noteLoad w (.mem m) with
    p := bitZero s.acc v (putFlag (putFlag s.p .n (topBit w v)) .v (nextBit w v)) }

/-! ### The meanings, one for each constructor of Instr -/

/-- ADC (d,x) (61): R181, R130. -/
def execAdcDirXInd (off : Byte) (s : State) : Host.Outcome State Fault Refusal :=
  .next ((s.advance 2).adc (.mem (.dirXInd off)))

/-- ADC d,s (63): R181, R140. -/
def execAdcStk (off : Byte) (s : State) : Host.Outcome State Fault Refusal :=
  .next ((s.advance 2).adc (.mem (.stk off)))

/-- ADC d (65): R181, R123. -/
def execAdcDir (off : Byte) (s : State) : Host.Outcome State Fault Refusal :=
  .next ((s.advance 2).adc (.mem (.dir off)))

/-- ADC [d] (67): R181, R133. -/
def execAdcDirLong (off : Byte) (s : State) : Host.Outcome State Fault Refusal :=
  .next ((s.advance 2).adc (.mem (.dirLong off)))

/-- ADC # (69): R181, R121. -/
def execAdcImm (v : Imm) (s : State) : Host.Outcome State Fault Refusal :=
  .next ((s.advance (1 + (immBytes v).length)).adc (.imm v))

/-- ADC a (6D): R181, R125. -/
def execAdcAbs (a : Word) (s : State) : Host.Outcome State Fault Refusal :=
  .next ((s.advance 3).adc (.mem (.abs a)))

/-- ADC al (6F): R181, R126. -/
def execAdcLong (a : Addr) (s : State) : Host.Outcome State Fault Refusal :=
  .next ((s.advance 4).adc (.mem (.long a)))

/-- ADC (d),y (71): R181, R131. -/
def execAdcDirIndY (off : Byte) (s : State) : Host.Outcome State Fault Refusal :=
  .next ((s.advance 2).adc (.mem (.dirIndY off)))

/-- ADC (d) (72): R181, R132. -/
def execAdcDirInd (off : Byte) (s : State) : Host.Outcome State Fault Refusal :=
  .next ((s.advance 2).adc (.mem (.dirInd off)))

/-- ADC (d,s),y (73): R181, R141. -/
def execAdcStkIndY (off : Byte) (s : State) : Host.Outcome State Fault Refusal :=
  .next ((s.advance 2).adc (.mem (.stkIndY off)))

/-- ADC d,x (75): R181, R124. -/
def execAdcDirX (off : Byte) (s : State) : Host.Outcome State Fault Refusal :=
  .next ((s.advance 2).adc (.mem (.dirX off)))

/-- ADC [d],y (77): R181, R133. -/
def execAdcDirLongY (off : Byte) (s : State) : Host.Outcome State Fault Refusal :=
  .next ((s.advance 2).adc (.mem (.dirLongY off)))

/-- ADC a,y (79): R181, R129. -/
def execAdcAbsY (a : Word) (s : State) : Host.Outcome State Fault Refusal :=
  .next ((s.advance 3).adc (.mem (.absY a)))

/-- ADC a,x (7D): R181, R129. -/
def execAdcAbsX (a : Word) (s : State) : Host.Outcome State Fault Refusal :=
  .next ((s.advance 3).adc (.mem (.absX a)))

/-- ADC al,x (7F): R181, R134. -/
def execAdcLongX (a : Addr) (s : State) : Host.Outcome State Fault Refusal :=
  .next ((s.advance 4).adc (.mem (.longX a)))

/-- SBC (d,x) (E1): R182, R130. -/
def execSbcDirXInd (off : Byte) (s : State) : Host.Outcome State Fault Refusal :=
  .next ((s.advance 2).sbc (.mem (.dirXInd off)))

/-- SBC d,s (E3): R182, R140. -/
def execSbcStk (off : Byte) (s : State) : Host.Outcome State Fault Refusal :=
  .next ((s.advance 2).sbc (.mem (.stk off)))

/-- SBC d (E5): R182, R123. -/
def execSbcDir (off : Byte) (s : State) : Host.Outcome State Fault Refusal :=
  .next ((s.advance 2).sbc (.mem (.dir off)))

/-- SBC [d] (E7): R182, R133. -/
def execSbcDirLong (off : Byte) (s : State) : Host.Outcome State Fault Refusal :=
  .next ((s.advance 2).sbc (.mem (.dirLong off)))

/-- SBC # (E9): R182, R121. -/
def execSbcImm (v : Imm) (s : State) : Host.Outcome State Fault Refusal :=
  .next ((s.advance (1 + (immBytes v).length)).sbc (.imm v))

/-- SBC a (ED): R182, R125. -/
def execSbcAbs (a : Word) (s : State) : Host.Outcome State Fault Refusal :=
  .next ((s.advance 3).sbc (.mem (.abs a)))

/-- SBC al (EF): R182, R126. -/
def execSbcLong (a : Addr) (s : State) : Host.Outcome State Fault Refusal :=
  .next ((s.advance 4).sbc (.mem (.long a)))

/-- SBC (d),y (F1): R182, R131. -/
def execSbcDirIndY (off : Byte) (s : State) : Host.Outcome State Fault Refusal :=
  .next ((s.advance 2).sbc (.mem (.dirIndY off)))

/-- SBC (d) (F2): R182, R132. -/
def execSbcDirInd (off : Byte) (s : State) : Host.Outcome State Fault Refusal :=
  .next ((s.advance 2).sbc (.mem (.dirInd off)))

/-- SBC (d,s),y (F3): R182, R141. -/
def execSbcStkIndY (off : Byte) (s : State) : Host.Outcome State Fault Refusal :=
  .next ((s.advance 2).sbc (.mem (.stkIndY off)))

/-- SBC d,x (F5): R182, R124. -/
def execSbcDirX (off : Byte) (s : State) : Host.Outcome State Fault Refusal :=
  .next ((s.advance 2).sbc (.mem (.dirX off)))

/-- SBC [d],y (F7): R182, R133. -/
def execSbcDirLongY (off : Byte) (s : State) : Host.Outcome State Fault Refusal :=
  .next ((s.advance 2).sbc (.mem (.dirLongY off)))

/-- SBC a,y (F9): R182, R129. -/
def execSbcAbsY (a : Word) (s : State) : Host.Outcome State Fault Refusal :=
  .next ((s.advance 3).sbc (.mem (.absY a)))

/-- SBC a,x (FD): R182, R129. -/
def execSbcAbsX (a : Word) (s : State) : Host.Outcome State Fault Refusal :=
  .next ((s.advance 3).sbc (.mem (.absX a)))

/-- SBC al,x (FF): R182, R134. -/
def execSbcLongX (a : Addr) (s : State) : Host.Outcome State Fault Refusal :=
  .next ((s.advance 4).sbc (.mem (.longX a)))

/-- AND (d,x) (21): R184, R130. -/
def execAndDirXInd (off : Byte) (s : State) : Host.Outcome State Fault Refusal :=
  .next ((s.advance 2).and (.mem (.dirXInd off)))

/-- AND d,s (23): R184, R140. -/
def execAndStk (off : Byte) (s : State) : Host.Outcome State Fault Refusal :=
  .next ((s.advance 2).and (.mem (.stk off)))

/-- AND d (25): R184, R123. -/
def execAndDir (off : Byte) (s : State) : Host.Outcome State Fault Refusal :=
  .next ((s.advance 2).and (.mem (.dir off)))

/-- AND [d] (27): R184, R133. -/
def execAndDirLong (off : Byte) (s : State) : Host.Outcome State Fault Refusal :=
  .next ((s.advance 2).and (.mem (.dirLong off)))

/-- AND # (29): R184, R121. -/
def execAndImm (v : Imm) (s : State) : Host.Outcome State Fault Refusal :=
  .next ((s.advance (1 + (immBytes v).length)).and (.imm v))

/-- AND a (2D): R184, R125. -/
def execAndAbs (a : Word) (s : State) : Host.Outcome State Fault Refusal :=
  .next ((s.advance 3).and (.mem (.abs a)))

/-- AND al (2F): R184, R126. -/
def execAndLong (a : Addr) (s : State) : Host.Outcome State Fault Refusal :=
  .next ((s.advance 4).and (.mem (.long a)))

/-- AND (d),y (31): R184, R131. -/
def execAndDirIndY (off : Byte) (s : State) : Host.Outcome State Fault Refusal :=
  .next ((s.advance 2).and (.mem (.dirIndY off)))

/-- AND (d) (32): R184, R132. -/
def execAndDirInd (off : Byte) (s : State) : Host.Outcome State Fault Refusal :=
  .next ((s.advance 2).and (.mem (.dirInd off)))

/-- AND (d,s),y (33): R184, R141. -/
def execAndStkIndY (off : Byte) (s : State) : Host.Outcome State Fault Refusal :=
  .next ((s.advance 2).and (.mem (.stkIndY off)))

/-- AND d,x (35): R184, R124. -/
def execAndDirX (off : Byte) (s : State) : Host.Outcome State Fault Refusal :=
  .next ((s.advance 2).and (.mem (.dirX off)))

/-- AND [d],y (37): R184, R133. -/
def execAndDirLongY (off : Byte) (s : State) : Host.Outcome State Fault Refusal :=
  .next ((s.advance 2).and (.mem (.dirLongY off)))

/-- AND a,y (39): R184, R129. -/
def execAndAbsY (a : Word) (s : State) : Host.Outcome State Fault Refusal :=
  .next ((s.advance 3).and (.mem (.absY a)))

/-- AND a,x (3D): R184, R129. -/
def execAndAbsX (a : Word) (s : State) : Host.Outcome State Fault Refusal :=
  .next ((s.advance 3).and (.mem (.absX a)))

/-- AND al,x (3F): R184, R134. -/
def execAndLongX (a : Addr) (s : State) : Host.Outcome State Fault Refusal :=
  .next ((s.advance 4).and (.mem (.longX a)))

/-- EOR (d,x) (41): R185, R130. -/
def execEorDirXInd (off : Byte) (s : State) : Host.Outcome State Fault Refusal :=
  .next ((s.advance 2).eor (.mem (.dirXInd off)))

/-- EOR d,s (43): R185, R140. -/
def execEorStk (off : Byte) (s : State) : Host.Outcome State Fault Refusal :=
  .next ((s.advance 2).eor (.mem (.stk off)))

/-- EOR d (45): R185, R123. -/
def execEorDir (off : Byte) (s : State) : Host.Outcome State Fault Refusal :=
  .next ((s.advance 2).eor (.mem (.dir off)))

/-- EOR [d] (47): R185, R133. -/
def execEorDirLong (off : Byte) (s : State) : Host.Outcome State Fault Refusal :=
  .next ((s.advance 2).eor (.mem (.dirLong off)))

/-- EOR # (49): R185, R121. -/
def execEorImm (v : Imm) (s : State) : Host.Outcome State Fault Refusal :=
  .next ((s.advance (1 + (immBytes v).length)).eor (.imm v))

/-- EOR a (4D): R185, R125. -/
def execEorAbs (a : Word) (s : State) : Host.Outcome State Fault Refusal :=
  .next ((s.advance 3).eor (.mem (.abs a)))

/-- EOR al (4F): R185, R126. -/
def execEorLong (a : Addr) (s : State) : Host.Outcome State Fault Refusal :=
  .next ((s.advance 4).eor (.mem (.long a)))

/-- EOR (d),y (51): R185, R131. -/
def execEorDirIndY (off : Byte) (s : State) : Host.Outcome State Fault Refusal :=
  .next ((s.advance 2).eor (.mem (.dirIndY off)))

/-- EOR (d) (52): R185, R132. -/
def execEorDirInd (off : Byte) (s : State) : Host.Outcome State Fault Refusal :=
  .next ((s.advance 2).eor (.mem (.dirInd off)))

/-- EOR (d,s),y (53): R185, R141. -/
def execEorStkIndY (off : Byte) (s : State) : Host.Outcome State Fault Refusal :=
  .next ((s.advance 2).eor (.mem (.stkIndY off)))

/-- EOR d,x (55): R185, R124. -/
def execEorDirX (off : Byte) (s : State) : Host.Outcome State Fault Refusal :=
  .next ((s.advance 2).eor (.mem (.dirX off)))

/-- EOR [d],y (57): R185, R133. -/
def execEorDirLongY (off : Byte) (s : State) : Host.Outcome State Fault Refusal :=
  .next ((s.advance 2).eor (.mem (.dirLongY off)))

/-- EOR a,y (59): R185, R129. -/
def execEorAbsY (a : Word) (s : State) : Host.Outcome State Fault Refusal :=
  .next ((s.advance 3).eor (.mem (.absY a)))

/-- EOR a,x (5D): R185, R129. -/
def execEorAbsX (a : Word) (s : State) : Host.Outcome State Fault Refusal :=
  .next ((s.advance 3).eor (.mem (.absX a)))

/-- EOR al,x (5F): R185, R134. -/
def execEorLongX (a : Addr) (s : State) : Host.Outcome State Fault Refusal :=
  .next ((s.advance 4).eor (.mem (.longX a)))

/-- ORA (d,x) (01): R186, R130. -/
def execOraDirXInd (off : Byte) (s : State) : Host.Outcome State Fault Refusal :=
  .next ((s.advance 2).ora (.mem (.dirXInd off)))

/-- ORA d,s (03): R186, R140. -/
def execOraStk (off : Byte) (s : State) : Host.Outcome State Fault Refusal :=
  .next ((s.advance 2).ora (.mem (.stk off)))

/-- ORA d (05): R186, R123. -/
def execOraDir (off : Byte) (s : State) : Host.Outcome State Fault Refusal :=
  .next ((s.advance 2).ora (.mem (.dir off)))

/-- ORA [d] (07): R186, R133. -/
def execOraDirLong (off : Byte) (s : State) : Host.Outcome State Fault Refusal :=
  .next ((s.advance 2).ora (.mem (.dirLong off)))

/-- ORA # (09): R186, R121. -/
def execOraImm (v : Imm) (s : State) : Host.Outcome State Fault Refusal :=
  .next ((s.advance (1 + (immBytes v).length)).ora (.imm v))

/-- ORA a (0D): R186, R125. -/
def execOraAbs (a : Word) (s : State) : Host.Outcome State Fault Refusal :=
  .next ((s.advance 3).ora (.mem (.abs a)))

/-- ORA al (0F): R186, R126. -/
def execOraLong (a : Addr) (s : State) : Host.Outcome State Fault Refusal :=
  .next ((s.advance 4).ora (.mem (.long a)))

/-- ORA (d),y (11): R186, R131. -/
def execOraDirIndY (off : Byte) (s : State) : Host.Outcome State Fault Refusal :=
  .next ((s.advance 2).ora (.mem (.dirIndY off)))

/-- ORA (d) (12): R186, R132. -/
def execOraDirInd (off : Byte) (s : State) : Host.Outcome State Fault Refusal :=
  .next ((s.advance 2).ora (.mem (.dirInd off)))

/-- ORA (d,s),y (13): R186, R141. -/
def execOraStkIndY (off : Byte) (s : State) : Host.Outcome State Fault Refusal :=
  .next ((s.advance 2).ora (.mem (.stkIndY off)))

/-- ORA d,x (15): R186, R124. -/
def execOraDirX (off : Byte) (s : State) : Host.Outcome State Fault Refusal :=
  .next ((s.advance 2).ora (.mem (.dirX off)))

/-- ORA [d],y (17): R186, R133. -/
def execOraDirLongY (off : Byte) (s : State) : Host.Outcome State Fault Refusal :=
  .next ((s.advance 2).ora (.mem (.dirLongY off)))

/-- ORA a,y (19): R186, R129. -/
def execOraAbsY (a : Word) (s : State) : Host.Outcome State Fault Refusal :=
  .next ((s.advance 3).ora (.mem (.absY a)))

/-- ORA a,x (1D): R186, R129. -/
def execOraAbsX (a : Word) (s : State) : Host.Outcome State Fault Refusal :=
  .next ((s.advance 3).ora (.mem (.absX a)))

/-- ORA al,x (1F): R186, R134. -/
def execOraLongX (a : Addr) (s : State) : Host.Outcome State Fault Refusal :=
  .next ((s.advance 4).ora (.mem (.longX a)))

/-- CMP (d,x) (C1): R187, R130. -/
def execCmpDirXInd (off : Byte) (s : State) : Host.Outcome State Fault Refusal :=
  .next ((s.advance 2).cmp (.mem (.dirXInd off)))

/-- CMP d,s (C3): R187, R140. -/
def execCmpStk (off : Byte) (s : State) : Host.Outcome State Fault Refusal :=
  .next ((s.advance 2).cmp (.mem (.stk off)))

/-- CMP d (C5): R187, R123. -/
def execCmpDir (off : Byte) (s : State) : Host.Outcome State Fault Refusal :=
  .next ((s.advance 2).cmp (.mem (.dir off)))

/-- CMP [d] (C7): R187, R133. -/
def execCmpDirLong (off : Byte) (s : State) : Host.Outcome State Fault Refusal :=
  .next ((s.advance 2).cmp (.mem (.dirLong off)))

/-- CMP # (C9): R187, R121. -/
def execCmpImm (v : Imm) (s : State) : Host.Outcome State Fault Refusal :=
  .next ((s.advance (1 + (immBytes v).length)).cmp (.imm v))

/-- CMP a (CD): R187, R125. -/
def execCmpAbs (a : Word) (s : State) : Host.Outcome State Fault Refusal :=
  .next ((s.advance 3).cmp (.mem (.abs a)))

/-- CMP al (CF): R187, R126. -/
def execCmpLong (a : Addr) (s : State) : Host.Outcome State Fault Refusal :=
  .next ((s.advance 4).cmp (.mem (.long a)))

/-- CMP (d),y (D1): R187, R131. -/
def execCmpDirIndY (off : Byte) (s : State) : Host.Outcome State Fault Refusal :=
  .next ((s.advance 2).cmp (.mem (.dirIndY off)))

/-- CMP (d) (D2): R187, R132. -/
def execCmpDirInd (off : Byte) (s : State) : Host.Outcome State Fault Refusal :=
  .next ((s.advance 2).cmp (.mem (.dirInd off)))

/-- CMP (d,s),y (D3): R187, R141. -/
def execCmpStkIndY (off : Byte) (s : State) : Host.Outcome State Fault Refusal :=
  .next ((s.advance 2).cmp (.mem (.stkIndY off)))

/-- CMP d,x (D5): R187, R124. -/
def execCmpDirX (off : Byte) (s : State) : Host.Outcome State Fault Refusal :=
  .next ((s.advance 2).cmp (.mem (.dirX off)))

/-- CMP [d],y (D7): R187, R133. -/
def execCmpDirLongY (off : Byte) (s : State) : Host.Outcome State Fault Refusal :=
  .next ((s.advance 2).cmp (.mem (.dirLongY off)))

/-- CMP a,y (D9): R187, R129. -/
def execCmpAbsY (a : Word) (s : State) : Host.Outcome State Fault Refusal :=
  .next ((s.advance 3).cmp (.mem (.absY a)))

/-- CMP a,x (DD): R187, R129. -/
def execCmpAbsX (a : Word) (s : State) : Host.Outcome State Fault Refusal :=
  .next ((s.advance 3).cmp (.mem (.absX a)))

/-- CMP al,x (DF): R187, R134. -/
def execCmpLongX (a : Addr) (s : State) : Host.Outcome State Fault Refusal :=
  .next ((s.advance 4).cmp (.mem (.longX a)))

/-- CPX # (E0): R188, R121. -/
def execCpxImm (v : Imm) (s : State) : Host.Outcome State Fault Refusal :=
  .next ((s.advance (1 + (immBytes v).length)).cpx (.imm v))

/-- CPX d (E4): R188, R123. -/
def execCpxDir (off : Byte) (s : State) : Host.Outcome State Fault Refusal :=
  .next ((s.advance 2).cpx (.mem (.dir off)))

/-- CPX a (EC): R188, R125. -/
def execCpxAbs (a : Word) (s : State) : Host.Outcome State Fault Refusal :=
  .next ((s.advance 3).cpx (.mem (.abs a)))

/-- CPY # (C0): R189, R121. -/
def execCpyImm (v : Imm) (s : State) : Host.Outcome State Fault Refusal :=
  .next ((s.advance (1 + (immBytes v).length)).cpy (.imm v))

/-- CPY d (C4): R189, R123. -/
def execCpyDir (off : Byte) (s : State) : Host.Outcome State Fault Refusal :=
  .next ((s.advance 2).cpy (.mem (.dir off)))

/-- CPY a (CC): R189, R125. -/
def execCpyAbs (a : Word) (s : State) : Host.Outcome State Fault Refusal :=
  .next ((s.advance 3).cpy (.mem (.abs a)))

/-- BIT d (24): R190, R123. -/
def execBitDir (off : Byte) (s : State) : Host.Outcome State Fault Refusal :=
  .next ((s.advance 2).bitMem (.dir off))

/-- BIT a (2C): R190, R125. -/
def execBitAbs (a : Word) (s : State) : Host.Outcome State Fault Refusal :=
  .next ((s.advance 3).bitMem (.abs a))

/-- BIT d,x (34): R190, R124. -/
def execBitDirX (off : Byte) (s : State) : Host.Outcome State Fault Refusal :=
  .next ((s.advance 2).bitMem (.dirX off))

/-- BIT a,x (3C): R190, R129. -/
def execBitAbsX (a : Word) (s : State) : Host.Outcome State Fault Refusal :=
  .next ((s.advance 3).bitMem (.absX a))

/-- BIT # (89): R190, R121. -/
def execBitImm (v : Imm) (s : State) : Host.Outcome State Fault Refusal :=
  .next ((s.advance (1 + (immBytes v).length)).bitImm v)

end Sys2Proof.Machine
end

