-- ==== Sys2Proof/Machine/BlockMove.lean ====
section
/-!
DEFINITION. Block moves (47_block_move.md R350 to R355): one byte an execution; PC stays on the opcode
until the byte moved with C = 0.
-/

namespace Sys2Proof.Machine

/-- C after a step of a block move (R353, R354). -/
def nextCount (f : FinalC) (c : Word) : Word :=
  if c = 0 then (match f with
    | .ffff => 0xFFFF
    | .zero => 0x0000)
  else c - 1

/-- One step of MVN (`delta` 1) or MVP (`delta` -1) (R353), from the state at the opcode. -/
def State.blockMove (s : State) (delta : Word) (dst src : Byte) : State :=
  let s1 := (s.note [s.readAccess .read false (mkAddr src s.x)]).write8 .write false
    (mkAddr dst s.y) (s.peek .read (mkAddr src s.x))
  { s1 with
    dbr := dst
    x := trunc s.xw (s.x + delta)
    y := trunc s.xw (s.y + delta)
    c := nextCount s.cfg.blockMoveFinalC s.c
    pc := if s.c = 0 then s.pc + 3 else s.pc }

/-! ### The meanings, one for each constructor of Instr -/

/-- MVN xyc (54): R351, R142. -/
def execMvn (dst : Byte) (src : Byte) (s : State) : Host.Outcome State Fault Refusal :=
  .next (s.blockMove 1 dst src)

/-- MVP xyc (44): R352, R142. -/
def execMvp (dst : Byte) (src : Byte) (s : State) : Host.Outcome State Fault Refusal :=
  .next (s.blockMove (-1) dst src)

end Sys2Proof.Machine
end

