-- ==== Sys2Proof/Machine/Control.lean ====
section
/-!
DEFINITION. Branches, jumps, calls and returns (45_control_flow.md R290 to R310). In the operations
that take the state before the operand fetches, `s.pc` is PC0, the address of the opcode.
-/

namespace Sys2Proof.Machine

/-- A relative branch (R290), from the state after the operand fetch: wraps in the program bank. -/
def State.branch (s : State) (taken : Bool) (disp : Byte) : State :=
  if taken then s.setPc (s.pc + sext16 disp) else s

/-- BRL (R300), from the state after the operand fetch. -/
def State.branchLong (s : State) (disp : Word) : State := s.setPc (s.pc + disp)

/-- JMP a (R301). -/
def State.jump (s : State) (a : Word) : State := s.setPc a

/-- A 24-bit target: PC and PBR loaded (R302). -/
def State.jumpLong (s : State) (t : Addr) : State := { s with pc := offOf t, pbr := bankOf t }

/-- JMP (a) (R303): the pointer lies in bank 0. -/
def State.jumpIndirect (s : State) (a : Word) : State :=
  (s.note (s.readAccesses .pointer false .bank (mkAddr 0x00 a) 2)).setPc
    (s.peek16 .pointer .bank (mkAddr 0x00 a))

/-- The jump through a table in the program bank (R138): of JMP (a,x) and of JSR (a,x). -/
def State.jumpTable (s : State) (a : Word) : State :=
  let pa := mkAddr s.pbr (a + s.x)
  (s.note (s.readAccesses .pointer false .bank pa 2)).setPc (s.peek16 .pointer .bank pa)

/-- JMP (a,x) (R304). -/
def State.jumpIndexedIndirect (s : State) (a : Word) : State := s.jumpTable a

/-- JML (a) (R305): a three-byte pointer in bank 0. -/
def State.jumpIndirectLong (s : State) (a : Word) : State :=
  (s.note (s.readAccesses .pointer false .bank (mkAddr 0x00 a) 3)).jumpLong
    (s.peek24 .pointer .bank (mkAddr 0x00 a))

/-- JSR a (R306): the address of its last byte is pushed. -/
def State.call (s : State) (a : Word) : State := (s.push16 (s.pc + 2)).setPc a

/-- JSR (a,x) (R307): the high operand byte is fetched after the pushes. -/
def State.callIndexedIndirect (s : State) (a : Word) : State :=
  let s1 := s.pushN16 (s.pc + 2)
  let last := s.codeAddr 2
  let hi := s1.lateByte s last (hiByte a)
  ((s1.note [s1.readAccess .operand false last]).jumpTable (mkWord hi (loByte a))).fixSp

/-- JSL (R308): PBR is pushed, the bank byte is fetched, the address of the last byte is pushed. -/
def State.callLong (s : State) (a : Addr) : State :=
  let s1 := s.pushN8 s.pbr
  let last := s.codeAddr 3
  let bank := s1.lateByte s last (bankOf a)
  (((s1.note [s1.readAccess .operand false last]).pushN16 (s.pc + 3)).jumpLong (mkAddr bank (offOf a))).fixSp

/-- RTS (R309): the pulled address plus 1. -/
def State.rts (s : State) : State := s.pull16.setPc (s.pulled16 + 1)

/-- RTL (R310): the pulled address plus 1, and the pulled bank. -/
def State.rtl (s : State) : State :=
  let lo := s.pulledN8
  let hi := s.pullN8.pulledN8
  let bank := s.pullN8.pullN8.pulledN8
  (s.pullN8.pullN8.pullN8.jumpLong (mkAddr bank (mkWord hi lo + 1))).fixSp

/-! ### The meanings, one for each constructor of Instr -/

/-- BCC r (90): R291, R135. -/
def execBcc (disp : Byte) (s : State) : Host.Outcome State Fault Refusal :=
  .next ((s.advance 2).branch (!getFlag s.p .c) disp)

/-- BCS r (B0): R292, R135. -/
def execBcs (disp : Byte) (s : State) : Host.Outcome State Fault Refusal :=
  .next ((s.advance 2).branch (getFlag s.p .c) disp)

/-- BEQ r (F0): R293, R135. -/
def execBeq (disp : Byte) (s : State) : Host.Outcome State Fault Refusal :=
  .next ((s.advance 2).branch (getFlag s.p .z) disp)

/-- BMI r (30): R294, R135. -/
def execBmi (disp : Byte) (s : State) : Host.Outcome State Fault Refusal :=
  .next ((s.advance 2).branch (getFlag s.p .n) disp)

/-- BNE r (D0): R295, R135. -/
def execBne (disp : Byte) (s : State) : Host.Outcome State Fault Refusal :=
  .next ((s.advance 2).branch (!getFlag s.p .z) disp)

/-- BPL r (10): R296, R135. -/
def execBpl (disp : Byte) (s : State) : Host.Outcome State Fault Refusal :=
  .next ((s.advance 2).branch (!getFlag s.p .n) disp)

/-- BVC r (50): R297, R135. -/
def execBvc (disp : Byte) (s : State) : Host.Outcome State Fault Refusal :=
  .next ((s.advance 2).branch (!getFlag s.p .v) disp)

/-- BVS r (70): R298, R135. -/
def execBvs (disp : Byte) (s : State) : Host.Outcome State Fault Refusal :=
  .next ((s.advance 2).branch (getFlag s.p .v) disp)

/-- BRA r (80): R299, R135. -/
def execBra (disp : Byte) (s : State) : Host.Outcome State Fault Refusal :=
  .next ((s.advance 2).branch true disp)

/-- BRL rl (82): R300, R136. -/
def execBrl (disp : Word) (s : State) : Host.Outcome State Fault Refusal :=
  .next ((s.advance 3).branchLong disp)

/-- JMP a (4C): R301, R125. -/
def execJmpAbs (a : Word) (s : State) : Host.Outcome State Fault Refusal :=
  .next (s.jump a)

/-- JMP al (5C): R302, R126. -/
def execJmpLong (a : Addr) (s : State) : Host.Outcome State Fault Refusal :=
  .next (s.jumpLong a)

/-- JMP (a) (6C): R303, R137. -/
def execJmpAbsInd (a : Word) (s : State) : Host.Outcome State Fault Refusal :=
  .next (s.jumpIndirect a)

/-- JMP (a,x) (7C): R304, R138. -/
def execJmpAbsXInd (a : Word) (s : State) : Host.Outcome State Fault Refusal :=
  .next (s.jumpIndexedIndirect a)

/-- JML (a) (DC): R305, R137. -/
def execJmlAbsInd (a : Word) (s : State) : Host.Outcome State Fault Refusal :=
  .next (s.jumpIndirectLong a)

/-- JSR a (20): R306, R125. -/
def execJsrAbs (a : Word) (s : State) : Host.Outcome State Fault Refusal :=
  .next (s.call a)

/-- JSR (a,x) (FC): R307, R138. -/
def execJsrAbsXInd (a : Word) (s : State) : Host.Outcome State Fault Refusal :=
  .next (s.callIndexedIndirect a)

/-- JSL al (22): R308, R126. -/
def execJslLong (a : Addr) (s : State) : Host.Outcome State Fault Refusal :=
  .next (s.callLong a)

/-- RTS s (60): R309, R139. -/
def execRts (s : State) : Host.Outcome State Fault Refusal :=
  .next ((s.advance 1).rts)

/-- RTL s (6B): R310, R139. -/
def execRtl (s : State) : Host.Outcome State Fault Refusal :=
  .next ((s.advance 1).rtl)

end Sys2Proof.Machine
end

