-- ==== Sys2Proof/Machine/LoadStore.lean ====
section
/-!
DEFINITION. Load and store instructions (41_load_store.md): LDA, LDX, LDY, STA, STX, STY, STZ.
-/

namespace Sys2Proof.Machine

/-- LDA (R161): the operand at width `mw` to `Acc`, N and Z from it. -/
def State.lda (s : State) (o : Operand) : State :=
  let v := s.operandValue s.mw o
  ((s.noteLoad s.mw o).setAcc s.mw v).setNZ s.mw v

/-- LDX (R162): the operand at width `xw` to X. -/
def State.ldx (s : State) (o : Operand) : State :=
  let v := s.operandValue s.xw o
  ((s.noteLoad s.xw o).setX s.xw v).setNZ s.xw v

/-- LDY (R163): the operand at width `xw` to Y. -/
def State.ldy (s : State) (o : Operand) : State :=
  let v := s.operandValue s.xw o
  ((s.noteLoad s.xw o).setY s.xw v).setNZ s.xw v

/-- STA (R164). -/
def State.sta (s : State) (m : MemMode) : State := s.store s.mw m s.c

/-- STX (R165). -/
def State.stx (s : State) (m : MemMode) : State := s.store s.xw m s.x

/-- STY (R166). -/
def State.sty (s : State) (m : MemMode) : State := s.store s.xw m s.y

/-- STZ (R167): zero at width `mw`. -/
def State.stz (s : State) (m : MemMode) : State := s.store s.mw m 0

/-! ### The meanings, one for each constructor of Instr -/

/-- LDA (d,x) (A1): R161, R130. -/
def execLdaDirXInd (off : Byte) (s : State) : Host.Outcome State Fault Refusal :=
  .next ((s.advance 2).lda (.mem (.dirXInd off)))

/-- LDA d,s (A3): R161, R140. -/
def execLdaStk (off : Byte) (s : State) : Host.Outcome State Fault Refusal :=
  .next ((s.advance 2).lda (.mem (.stk off)))

/-- LDA d (A5): R161, R123. -/
def execLdaDir (off : Byte) (s : State) : Host.Outcome State Fault Refusal :=
  .next ((s.advance 2).lda (.mem (.dir off)))

/-- LDA [d] (A7): R161, R133. -/
def execLdaDirLong (off : Byte) (s : State) : Host.Outcome State Fault Refusal :=
  .next ((s.advance 2).lda (.mem (.dirLong off)))

/-- LDA # (A9): R161, R121. -/
def execLdaImm (v : Imm) (s : State) : Host.Outcome State Fault Refusal :=
  .next ((s.advance (1 + (immBytes v).length)).lda (.imm v))

/-- LDA a (AD): R161, R125. -/
def execLdaAbs (a : Word) (s : State) : Host.Outcome State Fault Refusal :=
  .next ((s.advance 3).lda (.mem (.abs a)))

/-- LDA al (AF): R161, R126. -/
def execLdaLong (a : Addr) (s : State) : Host.Outcome State Fault Refusal :=
  .next ((s.advance 4).lda (.mem (.long a)))

/-- LDA (d),y (B1): R161, R131. -/
def execLdaDirIndY (off : Byte) (s : State) : Host.Outcome State Fault Refusal :=
  .next ((s.advance 2).lda (.mem (.dirIndY off)))

/-- LDA (d) (B2): R161, R132. -/
def execLdaDirInd (off : Byte) (s : State) : Host.Outcome State Fault Refusal :=
  .next ((s.advance 2).lda (.mem (.dirInd off)))

/-- LDA (d,s),y (B3): R161, R141. -/
def execLdaStkIndY (off : Byte) (s : State) : Host.Outcome State Fault Refusal :=
  .next ((s.advance 2).lda (.mem (.stkIndY off)))

/-- LDA d,x (B5): R161, R124. -/
def execLdaDirX (off : Byte) (s : State) : Host.Outcome State Fault Refusal :=
  .next ((s.advance 2).lda (.mem (.dirX off)))

/-- LDA [d],y (B7): R161, R133. -/
def execLdaDirLongY (off : Byte) (s : State) : Host.Outcome State Fault Refusal :=
  .next ((s.advance 2).lda (.mem (.dirLongY off)))

/-- LDA a,y (B9): R161, R129. -/
def execLdaAbsY (a : Word) (s : State) : Host.Outcome State Fault Refusal :=
  .next ((s.advance 3).lda (.mem (.absY a)))

/-- LDA a,x (BD): R161, R129. -/
def execLdaAbsX (a : Word) (s : State) : Host.Outcome State Fault Refusal :=
  .next ((s.advance 3).lda (.mem (.absX a)))

/-- LDA al,x (BF): R161, R134. -/
def execLdaLongX (a : Addr) (s : State) : Host.Outcome State Fault Refusal :=
  .next ((s.advance 4).lda (.mem (.longX a)))

/-- LDX # (A2): R162, R121. -/
def execLdxImm (v : Imm) (s : State) : Host.Outcome State Fault Refusal :=
  .next ((s.advance (1 + (immBytes v).length)).ldx (.imm v))

/-- LDX d (A6): R162, R123. -/
def execLdxDir (off : Byte) (s : State) : Host.Outcome State Fault Refusal :=
  .next ((s.advance 2).ldx (.mem (.dir off)))

/-- LDX a (AE): R162, R125. -/
def execLdxAbs (a : Word) (s : State) : Host.Outcome State Fault Refusal :=
  .next ((s.advance 3).ldx (.mem (.abs a)))

/-- LDX d,y (B6): R162, R124. -/
def execLdxDirY (off : Byte) (s : State) : Host.Outcome State Fault Refusal :=
  .next ((s.advance 2).ldx (.mem (.dirY off)))

/-- LDX a,y (BE): R162, R129. -/
def execLdxAbsY (a : Word) (s : State) : Host.Outcome State Fault Refusal :=
  .next ((s.advance 3).ldx (.mem (.absY a)))

/-- LDY # (A0): R163, R121. -/
def execLdyImm (v : Imm) (s : State) : Host.Outcome State Fault Refusal :=
  .next ((s.advance (1 + (immBytes v).length)).ldy (.imm v))

/-- LDY d (A4): R163, R123. -/
def execLdyDir (off : Byte) (s : State) : Host.Outcome State Fault Refusal :=
  .next ((s.advance 2).ldy (.mem (.dir off)))

/-- LDY a (AC): R163, R125. -/
def execLdyAbs (a : Word) (s : State) : Host.Outcome State Fault Refusal :=
  .next ((s.advance 3).ldy (.mem (.abs a)))

/-- LDY d,x (B4): R163, R124. -/
def execLdyDirX (off : Byte) (s : State) : Host.Outcome State Fault Refusal :=
  .next ((s.advance 2).ldy (.mem (.dirX off)))

/-- LDY a,x (BC): R163, R129. -/
def execLdyAbsX (a : Word) (s : State) : Host.Outcome State Fault Refusal :=
  .next ((s.advance 3).ldy (.mem (.absX a)))

/-- STA (d,x) (81): R164, R130. -/
def execStaDirXInd (off : Byte) (s : State) : Host.Outcome State Fault Refusal :=
  .next ((s.advance 2).sta (.dirXInd off))

/-- STA d,s (83): R164, R140. -/
def execStaStk (off : Byte) (s : State) : Host.Outcome State Fault Refusal :=
  .next ((s.advance 2).sta (.stk off))

/-- STA d (85): R164, R123. -/
def execStaDir (off : Byte) (s : State) : Host.Outcome State Fault Refusal :=
  .next ((s.advance 2).sta (.dir off))

/-- STA [d] (87): R164, R133. -/
def execStaDirLong (off : Byte) (s : State) : Host.Outcome State Fault Refusal :=
  .next ((s.advance 2).sta (.dirLong off))

/-- STA a (8D): R164, R125. -/
def execStaAbs (a : Word) (s : State) : Host.Outcome State Fault Refusal :=
  .next ((s.advance 3).sta (.abs a))

/-- STA al (8F): R164, R126. -/
def execStaLong (a : Addr) (s : State) : Host.Outcome State Fault Refusal :=
  .next ((s.advance 4).sta (.long a))

/-- STA (d),y (91): R164, R131. -/
def execStaDirIndY (off : Byte) (s : State) : Host.Outcome State Fault Refusal :=
  .next ((s.advance 2).sta (.dirIndY off))

/-- STA (d) (92): R164, R132. -/
def execStaDirInd (off : Byte) (s : State) : Host.Outcome State Fault Refusal :=
  .next ((s.advance 2).sta (.dirInd off))

/-- STA (d,s),y (93): R164, R141. -/
def execStaStkIndY (off : Byte) (s : State) : Host.Outcome State Fault Refusal :=
  .next ((s.advance 2).sta (.stkIndY off))

/-- STA d,x (95): R164, R124. -/
def execStaDirX (off : Byte) (s : State) : Host.Outcome State Fault Refusal :=
  .next ((s.advance 2).sta (.dirX off))

/-- STA [d],y (97): R164, R133. -/
def execStaDirLongY (off : Byte) (s : State) : Host.Outcome State Fault Refusal :=
  .next ((s.advance 2).sta (.dirLongY off))

/-- STA a,y (99): R164, R129. -/
def execStaAbsY (a : Word) (s : State) : Host.Outcome State Fault Refusal :=
  .next ((s.advance 3).sta (.absY a))

/-- STA a,x (9D): R164, R129. -/
def execStaAbsX (a : Word) (s : State) : Host.Outcome State Fault Refusal :=
  .next ((s.advance 3).sta (.absX a))

/-- STA al,x (9F): R164, R134. -/
def execStaLongX (a : Addr) (s : State) : Host.Outcome State Fault Refusal :=
  .next ((s.advance 4).sta (.longX a))

/-- STX d (86): R165, R123. -/
def execStxDir (off : Byte) (s : State) : Host.Outcome State Fault Refusal :=
  .next ((s.advance 2).stx (.dir off))

/-- STX a (8E): R165, R125. -/
def execStxAbs (a : Word) (s : State) : Host.Outcome State Fault Refusal :=
  .next ((s.advance 3).stx (.abs a))

/-- STX d,y (96): R165, R124. -/
def execStxDirY (off : Byte) (s : State) : Host.Outcome State Fault Refusal :=
  .next ((s.advance 2).stx (.dirY off))

/-- STY d (84): R166, R123. -/
def execStyDir (off : Byte) (s : State) : Host.Outcome State Fault Refusal :=
  .next ((s.advance 2).sty (.dir off))

/-- STY a (8C): R166, R125. -/
def execStyAbs (a : Word) (s : State) : Host.Outcome State Fault Refusal :=
  .next ((s.advance 3).sty (.abs a))

/-- STY d,x (94): R166, R124. -/
def execStyDirX (off : Byte) (s : State) : Host.Outcome State Fault Refusal :=
  .next ((s.advance 2).sty (.dirX off))

/-- STZ d (64): R167, R123. -/
def execStzDir (off : Byte) (s : State) : Host.Outcome State Fault Refusal :=
  .next ((s.advance 2).stz (.dir off))

/-- STZ d,x (74): R167, R124. -/
def execStzDirX (off : Byte) (s : State) : Host.Outcome State Fault Refusal :=
  .next ((s.advance 2).stz (.dirX off))

/-- STZ a (9C): R167, R125. -/
def execStzAbs (a : Word) (s : State) : Host.Outcome State Fault Refusal :=
  .next ((s.advance 3).stz (.abs a))

/-- STZ a,x (9E): R167, R129. -/
def execStzAbsX (a : Word) (s : State) : Host.Outcome State Fault Refusal :=
  .next ((s.advance 3).stz (.absX a))

end Sys2Proof.Machine
end

