-- ==== Sys2Proof/Machine/Modify.lean ====
section
/-!
DEFINITION. Increment and decrement, shifts and rotates, test-and-set and test-and-reset
(42_arithmetic_logic.md): INC, DEC, INX, INY, DEX, DEY, ASL, LSR, ROL, ROR, TSB, TRB.
-/

namespace Sys2Proof.Machine

/-- INX and DEX (R193, R195): X plus an amount modulo 2^xw. -/
def State.stepX (s : State) (k : Word) : State :=
  let r := trunc s.xw (s.x + k)
  (s.setX s.xw r).setNZ s.xw r

/-- INY and DEY (R194, R196): Y plus an amount modulo 2^xw. -/
def State.stepY (s : State) (k : Word) : State :=
  let r := trunc s.xw (s.y + k)
  (s.setY s.xw r).setNZ s.xw r

/-! ### The meanings, one for each constructor of Instr -/

/-- INC A (1A): R191, R127. -/
def execIncAcc (s : State) : Host.Outcome State Fault Refusal :=
  .next ((s.advance 1).rmwAcc incOp)

/-- INC d (E6): R191, R123. -/
def execIncDir (off : Byte) (s : State) : Host.Outcome State Fault Refusal :=
  .next ((s.advance 2).rmw (.dir off) incOp)

/-- INC a (EE): R191, R125. -/
def execIncAbs (a : Word) (s : State) : Host.Outcome State Fault Refusal :=
  .next ((s.advance 3).rmw (.abs a) incOp)

/-- INC d,x (F6): R191, R124. -/
def execIncDirX (off : Byte) (s : State) : Host.Outcome State Fault Refusal :=
  .next ((s.advance 2).rmw (.dirX off) incOp)

/-- INC a,x (FE): R191, R129. -/
def execIncAbsX (a : Word) (s : State) : Host.Outcome State Fault Refusal :=
  .next ((s.advance 3).rmw (.absX a) incOp)

/-- DEC A (3A): R192, R127. -/
def execDecAcc (s : State) : Host.Outcome State Fault Refusal :=
  .next ((s.advance 1).rmwAcc decOp)

/-- DEC d (C6): R192, R123. -/
def execDecDir (off : Byte) (s : State) : Host.Outcome State Fault Refusal :=
  .next ((s.advance 2).rmw (.dir off) decOp)

/-- DEC a (CE): R192, R125. -/
def execDecAbs (a : Word) (s : State) : Host.Outcome State Fault Refusal :=
  .next ((s.advance 3).rmw (.abs a) decOp)

/-- DEC d,x (D6): R192, R124. -/
def execDecDirX (off : Byte) (s : State) : Host.Outcome State Fault Refusal :=
  .next ((s.advance 2).rmw (.dirX off) decOp)

/-- DEC a,x (DE): R192, R129. -/
def execDecAbsX (a : Word) (s : State) : Host.Outcome State Fault Refusal :=
  .next ((s.advance 3).rmw (.absX a) decOp)

/-- INX (E8): R193, R128. -/
def execInx (s : State) : Host.Outcome State Fault Refusal :=
  .next ((s.advance 1).stepX 1)

/-- INY (C8): R194, R128. -/
def execIny (s : State) : Host.Outcome State Fault Refusal :=
  .next ((s.advance 1).stepY 1)

/-- DEX (CA): R195, R128. -/
def execDex (s : State) : Host.Outcome State Fault Refusal :=
  .next ((s.advance 1).stepX (-1))

/-- DEY (88): R196, R128. -/
def execDey (s : State) : Host.Outcome State Fault Refusal :=
  .next ((s.advance 1).stepY (-1))

/-- ASL d (06): R197, R123. -/
def execAslDir (off : Byte) (s : State) : Host.Outcome State Fault Refusal :=
  .next ((s.advance 2).rmw (.dir off) aslOp)

/-- ASL A (0A): R197, R127. -/
def execAslAcc (s : State) : Host.Outcome State Fault Refusal :=
  .next ((s.advance 1).rmwAcc aslOp)

/-- ASL a (0E): R197, R125. -/
def execAslAbs (a : Word) (s : State) : Host.Outcome State Fault Refusal :=
  .next ((s.advance 3).rmw (.abs a) aslOp)

/-- ASL d,x (16): R197, R124. -/
def execAslDirX (off : Byte) (s : State) : Host.Outcome State Fault Refusal :=
  .next ((s.advance 2).rmw (.dirX off) aslOp)

/-- ASL a,x (1E): R197, R129. -/
def execAslAbsX (a : Word) (s : State) : Host.Outcome State Fault Refusal :=
  .next ((s.advance 3).rmw (.absX a) aslOp)

/-- LSR d (46): R198, R123. -/
def execLsrDir (off : Byte) (s : State) : Host.Outcome State Fault Refusal :=
  .next ((s.advance 2).rmw (.dir off) lsrOp)

/-- LSR A (4A): R198, R127. -/
def execLsrAcc (s : State) : Host.Outcome State Fault Refusal :=
  .next ((s.advance 1).rmwAcc lsrOp)

/-- LSR a (4E): R198, R125. -/
def execLsrAbs (a : Word) (s : State) : Host.Outcome State Fault Refusal :=
  .next ((s.advance 3).rmw (.abs a) lsrOp)

/-- LSR d,x (56): R198, R124. -/
def execLsrDirX (off : Byte) (s : State) : Host.Outcome State Fault Refusal :=
  .next ((s.advance 2).rmw (.dirX off) lsrOp)

/-- LSR a,x (5E): R198, R129. -/
def execLsrAbsX (a : Word) (s : State) : Host.Outcome State Fault Refusal :=
  .next ((s.advance 3).rmw (.absX a) lsrOp)

/-- ROL d (26): R199, R123. -/
def execRolDir (off : Byte) (s : State) : Host.Outcome State Fault Refusal :=
  .next ((s.advance 2).rmw (.dir off) rolOp)

/-- ROL A (2A): R199, R127. -/
def execRolAcc (s : State) : Host.Outcome State Fault Refusal :=
  .next ((s.advance 1).rmwAcc rolOp)

/-- ROL a (2E): R199, R125. -/
def execRolAbs (a : Word) (s : State) : Host.Outcome State Fault Refusal :=
  .next ((s.advance 3).rmw (.abs a) rolOp)

/-- ROL d,x (36): R199, R124. -/
def execRolDirX (off : Byte) (s : State) : Host.Outcome State Fault Refusal :=
  .next ((s.advance 2).rmw (.dirX off) rolOp)

/-- ROL a,x (3E): R199, R129. -/
def execRolAbsX (a : Word) (s : State) : Host.Outcome State Fault Refusal :=
  .next ((s.advance 3).rmw (.absX a) rolOp)

/-- ROR d (66): R200, R123. -/
def execRorDir (off : Byte) (s : State) : Host.Outcome State Fault Refusal :=
  .next ((s.advance 2).rmw (.dir off) rorOp)

/-- ROR A (6A): R200, R127. -/
def execRorAcc (s : State) : Host.Outcome State Fault Refusal :=
  .next ((s.advance 1).rmwAcc rorOp)

/-- ROR a (6E): R200, R125. -/
def execRorAbs (a : Word) (s : State) : Host.Outcome State Fault Refusal :=
  .next ((s.advance 3).rmw (.abs a) rorOp)

/-- ROR d,x (76): R200, R124. -/
def execRorDirX (off : Byte) (s : State) : Host.Outcome State Fault Refusal :=
  .next ((s.advance 2).rmw (.dirX off) rorOp)

/-- ROR a,x (7E): R200, R129. -/
def execRorAbsX (a : Word) (s : State) : Host.Outcome State Fault Refusal :=
  .next ((s.advance 3).rmw (.absX a) rorOp)

/-- TSB d (04): R201, R123. -/
def execTsbDir (off : Byte) (s : State) : Host.Outcome State Fault Refusal :=
  .next ((s.advance 2).rmw (.dir off) (tsbOp s.acc))

/-- TSB a (0C): R201, R125. -/
def execTsbAbs (a : Word) (s : State) : Host.Outcome State Fault Refusal :=
  .next ((s.advance 3).rmw (.abs a) (tsbOp s.acc))

/-- TRB d (14): R202, R123. -/
def execTrbDir (off : Byte) (s : State) : Host.Outcome State Fault Refusal :=
  .next ((s.advance 2).rmw (.dir off) (trbOp s.acc))

/-- TRB a (1C): R202, R125. -/
def execTrbAbs (a : Word) (s : State) : Host.Outcome State Fault Refusal :=
  .next ((s.advance 3).rmw (.abs a) (trbOp s.acc))

end Sys2Proof.Machine
end

