-- ==== Sys2Proof/Machine/Stack.lean ====
section
/-!
DEFINITION. Push, pull and push-effective-address instructions (44_stack.md R265 to R280). R264 says
which of them wrap inside page 1 in Emulation mode and which use 16-bit stack arithmetic.
-/

namespace Sys2Proof.Machine

/-- `PushN16` and the restoration of SH that ends the instruction (R263, R271, R278 to R280). -/
def State.pushWordN (s : State) (v : Word) : State := (s.pushN16 v).fixSp

/-- PLA (R272). -/
def State.pla (s : State) : State :=
  let v := s.pulledW s.mw
  ((s.pullW s.mw).setAcc s.mw v).setNZ s.mw v

/-- PLX (R273). -/
def State.plx (s : State) : State :=
  let v := s.pulledW s.xw
  ((s.pullW s.xw).setX s.xw v).setNZ s.xw v

/-- PLY (R274). -/
def State.ply (s : State) : State :=
  let v := s.pulledW s.xw
  ((s.pullW s.xw).setY s.xw v).setNZ s.xw v

/-- PLP (R275): the pulled byte to P, normalised. -/
def State.plp (s : State) : State := s.pull8.loadP s.pulled8

/-- PLB (R276): N and Z at 8 bits. -/
def State.plb (s : State) : State :=
  State.setNZ { s.pull8 with dbr := s.pulled8 } .w8 (0x00#8 ++ s.pulled8)

/-- PLD (R277): 16 bits with 16-bit stack arithmetic, N and Z at 16 bits. -/
def State.pld (s : State) : State :=
  let v := mkWord s.pullN8.pulledN8 s.pulledN8
  (State.setNZ { s.pullN8.pullN8 with d := v } .w16 v).fixSp

/-- PEI (R279): the word in the direct page, read without page wrap, is pushed. -/
def State.pei (s : State) (off : Byte) : State :=
  let a := mkAddr 0x00 (s.dirAddr off 0)
  (s.note (s.readAccesses .read false .bank a 2)).pushWordN (s.peek16 .read .bank a)

/-- PER (R280): the address of the next instruction plus the displacement is pushed. The state is
the one after the fetch of the operand. -/
def State.per (s : State) (disp : Word) : State := s.pushWordN (s.pc + disp)

/-! ### The meanings, one for each constructor of Instr -/

/-- PHA s (48): R265, R139. -/
def execPha (s : State) : Host.Outcome State Fault Refusal :=
  .next ((s.advance 1).pushW s.mw s.c)

/-- PHX s (DA): R266, R139. -/
def execPhx (s : State) : Host.Outcome State Fault Refusal :=
  .next ((s.advance 1).pushW s.xw s.x)

/-- PHY s (5A): R267, R139. -/
def execPhy (s : State) : Host.Outcome State Fault Refusal :=
  .next ((s.advance 1).pushW s.xw s.y)

/-- PHP s (08): R268, R139. -/
def execPhp (s : State) : Host.Outcome State Fault Refusal :=
  .next ((s.advance 1).push8 s.p)

/-- PHB s (8B): R269, R139. -/
def execPhb (s : State) : Host.Outcome State Fault Refusal :=
  .next ((s.advance 1).push8 s.dbr)

/-- PHK s (4B): R270, R139. -/
def execPhk (s : State) : Host.Outcome State Fault Refusal :=
  .next ((s.advance 1).push8 s.pbr)

/-- PHD s (0B): R271, R139. -/
def execPhd (s : State) : Host.Outcome State Fault Refusal :=
  .next ((s.advance 1).pushWordN s.d)

/-- PLA s (68): R272, R139. -/
def execPla (s : State) : Host.Outcome State Fault Refusal :=
  .next ((s.advance 1).pla)

/-- PLX s (FA): R273, R139. -/
def execPlx (s : State) : Host.Outcome State Fault Refusal :=
  .next ((s.advance 1).plx)

/-- PLY s (7A): R274, R139. -/
def execPly (s : State) : Host.Outcome State Fault Refusal :=
  .next ((s.advance 1).ply)

/-- PLP s (28): R275, R139. -/
def execPlp (s : State) : Host.Outcome State Fault Refusal :=
  .next ((s.advance 1).plp)

/-- PLB s (AB): R276, R139. -/
def execPlb (s : State) : Host.Outcome State Fault Refusal :=
  .next ((s.advance 1).plb)

/-- PLD s (2B): R277, R139. -/
def execPld (s : State) : Host.Outcome State Fault Refusal :=
  .next ((s.advance 1).pld)

/-- PEA s (F4): R278, R139. -/
def execPea (v : Word) (s : State) : Host.Outcome State Fault Refusal :=
  .next ((s.advance 3).pushWordN v)

/-- PEI s (D4): R279, R139. -/
def execPei (off : Byte) (s : State) : Host.Outcome State Fault Refusal :=
  .next ((s.advance 2).pei off)

/-- PER s (62): R280, R139. -/
def execPer (disp : Word) (s : State) : Host.Outcome State Fault Refusal :=
  .next ((s.advance 3).per disp)

end Sys2Proof.Machine
end

