-- ==== Sys2Proof/Machine/Status.lean ====
section
/-!
DEFINITION. Status-register instructions and the mode switch (46_status_flags.md R330 to R341).
-/

namespace Sys2Proof.Machine

/-- XCE (R341): C and E exchanged; where the new E is 1, M and X are set, SH is 01 and the index high
bytes are 00. -/
def State.exchangeCE (s : State) : State :=
  let e := getFlag s.p .c
  let p := putFlag s.p .c s.e
  if e then
    { s with
      e := true
      p := putFlag (putFlag p .m true) .x true
      sp := mkWord 0x01 (loByte s.sp)
      x := trunc .w8 s.x
      y := trunc .w8 s.y }
  else { s with e := false, p := p }

/-! ### The meanings, one for each constructor of Instr -/

/-- CLC (18): R330, R128. -/
def execClc (s : State) : Host.Outcome State Fault Refusal :=
  .next ((s.advance 1).setFlag .c false)

/-- CLD (D8): R331, R128. -/
def execCld (s : State) : Host.Outcome State Fault Refusal :=
  .next ((s.advance 1).setFlag .d false)

/-- CLI (58): R332, R128. -/
def execCli (s : State) : Host.Outcome State Fault Refusal :=
  .next ((s.advance 1).setFlag .i false)

/-- CLV (B8): R333, R128. -/
def execClv (s : State) : Host.Outcome State Fault Refusal :=
  .next ((s.advance 1).setFlag .v false)

/-- SEC (38): R334, R128. -/
def execSec (s : State) : Host.Outcome State Fault Refusal :=
  .next ((s.advance 1).setFlag .c true)

/-- SED (F8): R335, R128. -/
def execSed (s : State) : Host.Outcome State Fault Refusal :=
  .next ((s.advance 1).setFlag .d true)

/-- SEI (78): R336, R128. -/
def execSei (s : State) : Host.Outcome State Fault Refusal :=
  .next ((s.advance 1).setFlag .i true)

/-- REP # (C2): R337, R121. -/
def execRepImm (v : Byte) (s : State) : Host.Outcome State Fault Refusal :=
  .next ((s.advance 2).loadP (s.p &&& ~~~v))

/-- SEP # (E2): R338, R121. -/
def execSepImm (v : Byte) (s : State) : Host.Outcome State Fault Refusal :=
  .next ((s.advance 2).loadP (s.p ||| v))

/-- XCE (FB): R341, R128. -/
def execXce (s : State) : Host.Outcome State Fault Refusal :=
  .next ((s.advance 1).exchangeCE)

end Sys2Proof.Machine
end

