-- ==== Sys2Proof/Machine/System.lean ====
section
/-!
DEFINITION. System instructions (48_system.md R360 to R366): BRK, COP, RTI, WAI, STP, NOP, WDM.
-/

namespace Sys2Proof.Machine

/-- WAI (R363): the processor waits, unless the platform forces RDY high (R435, D16). -/
def State.wait (s : State) : State := { s with waiting := !s.rdyForcedHigh }

/-- STP (R364): the processor stops. -/
def State.stop (s : State) : State := { s with stopped := true }

/-! ### The meanings, one for each constructor of Instr -/

/-- BRK s (00): R360, R139. -/
def execBrk (_sig : Byte) (s : State) : Host.Outcome State Fault Refusal :=
  .next ((s.advance 2).interrupt .brk (s.pc + 2))

/-- COP s (02): R361, R139. -/
def execCop (_sig : Byte) (s : State) : Host.Outcome State Fault Refusal :=
  .next ((s.advance 2).interrupt .cop (s.pc + 2))

/-- RTI s (40): R362, R139. -/
def execRti (s : State) : Host.Outcome State Fault Refusal :=
  .next ((s.advance 1).returnFromInterrupt)

/-- WAI (CB): R363, R128. -/
def execWai (s : State) : Host.Outcome State Fault Refusal :=
  .next ((s.advance 1).wait)

/-- STP (DB): R364, R128. -/
def execStp (s : State) : Host.Outcome State Fault Refusal :=
  .next ((s.advance 1).stop)

/-- NOP (EA): R365, R128. -/
def execNop (s : State) : Host.Outcome State Fault Refusal :=
  .next (s.advance 1)

/-- WDM (42): R366, R97. -/
def execWdm (_ignored : Byte) (s : State) : Host.Outcome State Fault Refusal :=
  .next (s.advance 2)

end Sys2Proof.Machine
end

