-- ==== Sys2Proof/Machine/Transfer.lean ====
section
/-!
DEFINITION. Register transfers and the exchange of B and A (43_transfer.md R230 to R243). The source
always offers 16 bits; the destination's width says how many are stored (R230).
-/

namespace Sys2Proof.Machine

/-- A transfer to X at width `xw`, with N and Z (R230, R231, R236, R237). -/
def State.toX (s : State) (v : Word) : State := (s.setX s.xw v).setNZ s.xw v

/-- A transfer to Y at width `xw`, with N and Z (R230, R232, R235). -/
def State.toY (s : State) (v : Word) : State := (s.setY s.xw v).setNZ s.xw v

/-- A transfer to the accumulator at width `mw`, with N and Z (R230, R233, R234). -/
def State.toAcc (s : State) (v : Word) : State := (s.setAcc s.mw v).setNZ s.mw v

/-- A transfer to all of C, with N and Z at 16 bits (R240, R242). -/
def State.toC (s : State) (v : Word) : State := (s.setAcc .w16 v).setNZ .w16 v

/-- A transfer to D, with N and Z at 16 bits (R239). -/
def State.toD (s : State) (v : Word) : State := State.setNZ { s with d := v } .w16 v

/-- A transfer to S, without flags; in Emulation mode SH is 01 (R238, R241). -/
def State.toS (s : State) (v : Word) : State :=
  { s with sp := if s.e then mkWord 0x01 (loByte v) else v }

/-- XBA (R243): the halves of C exchanged, N and Z from the new A at 8 bits. -/
def State.exchangeBA (s : State) : State :=
  let v := mkWord (loByte s.c) (hiByte s.c)
  State.setNZ { s with c := v } .w8 v

/-! ### The meanings, one for each constructor of Instr -/

/-- TAX (AA): R231, R128. -/
def execTax (s : State) : Host.Outcome State Fault Refusal :=
  .next ((s.advance 1).toX s.c)

/-- TAY (A8): R232, R128. -/
def execTay (s : State) : Host.Outcome State Fault Refusal :=
  .next ((s.advance 1).toY s.c)

/-- TXA (8A): R233, R128. -/
def execTxa (s : State) : Host.Outcome State Fault Refusal :=
  .next ((s.advance 1).toAcc s.x)

/-- TYA (98): R234, R128. -/
def execTya (s : State) : Host.Outcome State Fault Refusal :=
  .next ((s.advance 1).toAcc s.y)

/-- TXY (9B): R235, R128. -/
def execTxy (s : State) : Host.Outcome State Fault Refusal :=
  .next ((s.advance 1).toY s.x)

/-- TYX (BB): R236, R128. -/
def execTyx (s : State) : Host.Outcome State Fault Refusal :=
  .next ((s.advance 1).toX s.y)

/-- TSX (BA): R237, R128. -/
def execTsx (s : State) : Host.Outcome State Fault Refusal :=
  .next ((s.advance 1).toX s.sp)

/-- TXS (9A): R238, R128. -/
def execTxs (s : State) : Host.Outcome State Fault Refusal :=
  .next ((s.advance 1).toS s.x)

/-- TCD (5B): R239, R128. -/
def execTcd (s : State) : Host.Outcome State Fault Refusal :=
  .next ((s.advance 1).toD s.c)

/-- TDC (7B): R240, R128. -/
def execTdc (s : State) : Host.Outcome State Fault Refusal :=
  .next ((s.advance 1).toC s.d)

/-- TCS (1B): R241, R128. -/
def execTcs (s : State) : Host.Outcome State Fault Refusal :=
  .next ((s.advance 1).toS s.c)

/-- TSC (3B): R242, R128. -/
def execTsc (s : State) : Host.Outcome State Fault Refusal :=
  .next ((s.advance 1).toC s.sp)

/-- XBA (EB): R243, R128. -/
def execXba (s : State) : Host.Outcome State Fault Refusal :=
  .next ((s.advance 1).exchangeBA)

end Sys2Proof.Machine
end

