-- ==== Sys2Proof/Machine/Dispatch.lean ====
section
/-!
DEFINITION. What each instruction does: one arm for each constructor of Instr, one call of its meaning.
-/

namespace Sys2Proof.Machine

def exec (i : Instr) (s : State) : Host.Outcome State Fault Refusal :=
  match i with
  | .brk sig => Sys2Proof.Machine.execBrk sig s
  | .oraDirXInd off => Sys2Proof.Machine.execOraDirXInd off s
  | .cop sig => Sys2Proof.Machine.execCop sig s
  | .oraStk off => Sys2Proof.Machine.execOraStk off s
  | .tsbDir off => Sys2Proof.Machine.execTsbDir off s
  | .oraDir off => Sys2Proof.Machine.execOraDir off s
  | .aslDir off => Sys2Proof.Machine.execAslDir off s
  | .oraDirLong off => Sys2Proof.Machine.execOraDirLong off s
  | .oraImm v => Sys2Proof.Machine.execOraImm v s
  | .tsbAbs a => Sys2Proof.Machine.execTsbAbs a s
  | .oraAbs a => Sys2Proof.Machine.execOraAbs a s
  | .aslAbs a => Sys2Proof.Machine.execAslAbs a s
  | .oraLong a => Sys2Proof.Machine.execOraLong a s
  | .bpl disp => Sys2Proof.Machine.execBpl disp s
  | .oraDirIndY off => Sys2Proof.Machine.execOraDirIndY off s
  | .oraDirInd off => Sys2Proof.Machine.execOraDirInd off s
  | .oraStkIndY off => Sys2Proof.Machine.execOraStkIndY off s
  | .trbDir off => Sys2Proof.Machine.execTrbDir off s
  | .oraDirX off => Sys2Proof.Machine.execOraDirX off s
  | .aslDirX off => Sys2Proof.Machine.execAslDirX off s
  | .oraDirLongY off => Sys2Proof.Machine.execOraDirLongY off s
  | .oraAbsY a => Sys2Proof.Machine.execOraAbsY a s
  | .trbAbs a => Sys2Proof.Machine.execTrbAbs a s
  | .oraAbsX a => Sys2Proof.Machine.execOraAbsX a s
  | .aslAbsX a => Sys2Proof.Machine.execAslAbsX a s
  | .oraLongX a => Sys2Proof.Machine.execOraLongX a s
  | .jsrAbs a => Sys2Proof.Machine.execJsrAbs a s
  | .andDirXInd off => Sys2Proof.Machine.execAndDirXInd off s
  | .jslLong a => Sys2Proof.Machine.execJslLong a s
  | .andStk off => Sys2Proof.Machine.execAndStk off s
  | .bitDir off => Sys2Proof.Machine.execBitDir off s
  | .andDir off => Sys2Proof.Machine.execAndDir off s
  | .rolDir off => Sys2Proof.Machine.execRolDir off s
  | .andDirLong off => Sys2Proof.Machine.execAndDirLong off s
  | .andImm v => Sys2Proof.Machine.execAndImm v s
  | .bitAbs a => Sys2Proof.Machine.execBitAbs a s
  | .andAbs a => Sys2Proof.Machine.execAndAbs a s
  | .rolAbs a => Sys2Proof.Machine.execRolAbs a s
  | .andLong a => Sys2Proof.Machine.execAndLong a s
  | .bmi disp => Sys2Proof.Machine.execBmi disp s
  | .andDirIndY off => Sys2Proof.Machine.execAndDirIndY off s
  | .andDirInd off => Sys2Proof.Machine.execAndDirInd off s
  | .andStkIndY off => Sys2Proof.Machine.execAndStkIndY off s
  | .bitDirX off => Sys2Proof.Machine.execBitDirX off s
  | .andDirX off => Sys2Proof.Machine.execAndDirX off s
  | .rolDirX off => Sys2Proof.Machine.execRolDirX off s
  | .andDirLongY off => Sys2Proof.Machine.execAndDirLongY off s
  | .andAbsY a => Sys2Proof.Machine.execAndAbsY a s
  | .bitAbsX a => Sys2Proof.Machine.execBitAbsX a s
  | .andAbsX a => Sys2Proof.Machine.execAndAbsX a s
  | .rolAbsX a => Sys2Proof.Machine.execRolAbsX a s
  | .andLongX a => Sys2Proof.Machine.execAndLongX a s
  | .eorDirXInd off => Sys2Proof.Machine.execEorDirXInd off s
  | .wdm ignored => Sys2Proof.Machine.execWdm ignored s
  | .eorStk off => Sys2Proof.Machine.execEorStk off s
  | .mvp dst src => Sys2Proof.Machine.execMvp dst src s
  | .eorDir off => Sys2Proof.Machine.execEorDir off s
  | .lsrDir off => Sys2Proof.Machine.execLsrDir off s
  | .eorDirLong off => Sys2Proof.Machine.execEorDirLong off s
  | .eorImm v => Sys2Proof.Machine.execEorImm v s
  | .jmpAbs a => Sys2Proof.Machine.execJmpAbs a s
  | .eorAbs a => Sys2Proof.Machine.execEorAbs a s
  | .lsrAbs a => Sys2Proof.Machine.execLsrAbs a s
  | .eorLong a => Sys2Proof.Machine.execEorLong a s
  | .bvc disp => Sys2Proof.Machine.execBvc disp s
  | .eorDirIndY off => Sys2Proof.Machine.execEorDirIndY off s
  | .eorDirInd off => Sys2Proof.Machine.execEorDirInd off s
  | .eorStkIndY off => Sys2Proof.Machine.execEorStkIndY off s
  | .mvn dst src => Sys2Proof.Machine.execMvn dst src s
  | .eorDirX off => Sys2Proof.Machine.execEorDirX off s
  | .lsrDirX off => Sys2Proof.Machine.execLsrDirX off s
  | .eorDirLongY off => Sys2Proof.Machine.execEorDirLongY off s
  | .eorAbsY a => Sys2Proof.Machine.execEorAbsY a s
  | .jmpLong a => Sys2Proof.Machine.execJmpLong a s
  | .eorAbsX a => Sys2Proof.Machine.execEorAbsX a s
  | .lsrAbsX a => Sys2Proof.Machine.execLsrAbsX a s
  | .eorLongX a => Sys2Proof.Machine.execEorLongX a s
  | .adcDirXInd off => Sys2Proof.Machine.execAdcDirXInd off s
  | .per disp => Sys2Proof.Machine.execPer disp s
  | .adcStk off => Sys2Proof.Machine.execAdcStk off s
  | .stzDir off => Sys2Proof.Machine.execStzDir off s
  | .adcDir off => Sys2Proof.Machine.execAdcDir off s
  | .rorDir off => Sys2Proof.Machine.execRorDir off s
  | .adcDirLong off => Sys2Proof.Machine.execAdcDirLong off s
  | .adcImm v => Sys2Proof.Machine.execAdcImm v s
  | .jmpAbsInd a => Sys2Proof.Machine.execJmpAbsInd a s
  | .adcAbs a => Sys2Proof.Machine.execAdcAbs a s
  | .rorAbs a => Sys2Proof.Machine.execRorAbs a s
  | .adcLong a => Sys2Proof.Machine.execAdcLong a s
  | .bvs disp => Sys2Proof.Machine.execBvs disp s
  | .adcDirIndY off => Sys2Proof.Machine.execAdcDirIndY off s
  | .adcDirInd off => Sys2Proof.Machine.execAdcDirInd off s
  | .adcStkIndY off => Sys2Proof.Machine.execAdcStkIndY off s
  | .stzDirX off => Sys2Proof.Machine.execStzDirX off s
  | .adcDirX off => Sys2Proof.Machine.execAdcDirX off s
  | .rorDirX off => Sys2Proof.Machine.execRorDirX off s
  | .adcDirLongY off => Sys2Proof.Machine.execAdcDirLongY off s
  | .adcAbsY a => Sys2Proof.Machine.execAdcAbsY a s
  | .jmpAbsXInd a => Sys2Proof.Machine.execJmpAbsXInd a s
  | .adcAbsX a => Sys2Proof.Machine.execAdcAbsX a s
  | .rorAbsX a => Sys2Proof.Machine.execRorAbsX a s
  | .adcLongX a => Sys2Proof.Machine.execAdcLongX a s
  | .bra disp => Sys2Proof.Machine.execBra disp s
  | .staDirXInd off => Sys2Proof.Machine.execStaDirXInd off s
  | .brl disp => Sys2Proof.Machine.execBrl disp s
  | .staStk off => Sys2Proof.Machine.execStaStk off s
  | .styDir off => Sys2Proof.Machine.execStyDir off s
  | .staDir off => Sys2Proof.Machine.execStaDir off s
  | .stxDir off => Sys2Proof.Machine.execStxDir off s
  | .staDirLong off => Sys2Proof.Machine.execStaDirLong off s
  | .bitImm v => Sys2Proof.Machine.execBitImm v s
  | .styAbs a => Sys2Proof.Machine.execStyAbs a s
  | .staAbs a => Sys2Proof.Machine.execStaAbs a s
  | .stxAbs a => Sys2Proof.Machine.execStxAbs a s
  | .staLong a => Sys2Proof.Machine.execStaLong a s
  | .bcc disp => Sys2Proof.Machine.execBcc disp s
  | .staDirIndY off => Sys2Proof.Machine.execStaDirIndY off s
  | .staDirInd off => Sys2Proof.Machine.execStaDirInd off s
  | .staStkIndY off => Sys2Proof.Machine.execStaStkIndY off s
  | .styDirX off => Sys2Proof.Machine.execStyDirX off s
  | .staDirX off => Sys2Proof.Machine.execStaDirX off s
  | .stxDirY off => Sys2Proof.Machine.execStxDirY off s
  | .staDirLongY off => Sys2Proof.Machine.execStaDirLongY off s
  | .staAbsY a => Sys2Proof.Machine.execStaAbsY a s
  | .stzAbs a => Sys2Proof.Machine.execStzAbs a s
  | .staAbsX a => Sys2Proof.Machine.execStaAbsX a s
  | .stzAbsX a => Sys2Proof.Machine.execStzAbsX a s
  | .staLongX a => Sys2Proof.Machine.execStaLongX a s
  | .ldyImm v => Sys2Proof.Machine.execLdyImm v s
  | .ldaDirXInd off => Sys2Proof.Machine.execLdaDirXInd off s
  | .ldxImm v => Sys2Proof.Machine.execLdxImm v s
  | .ldaStk off => Sys2Proof.Machine.execLdaStk off s
  | .ldyDir off => Sys2Proof.Machine.execLdyDir off s
  | .ldaDir off => Sys2Proof.Machine.execLdaDir off s
  | .ldxDir off => Sys2Proof.Machine.execLdxDir off s
  | .ldaDirLong off => Sys2Proof.Machine.execLdaDirLong off s
  | .ldaImm v => Sys2Proof.Machine.execLdaImm v s
  | .ldyAbs a => Sys2Proof.Machine.execLdyAbs a s
  | .ldaAbs a => Sys2Proof.Machine.execLdaAbs a s
  | .ldxAbs a => Sys2Proof.Machine.execLdxAbs a s
  | .ldaLong a => Sys2Proof.Machine.execLdaLong a s
  | .bcs disp => Sys2Proof.Machine.execBcs disp s
  | .ldaDirIndY off => Sys2Proof.Machine.execLdaDirIndY off s
  | .ldaDirInd off => Sys2Proof.Machine.execLdaDirInd off s
  | .ldaStkIndY off => Sys2Proof.Machine.execLdaStkIndY off s
  | .ldyDirX off => Sys2Proof.Machine.execLdyDirX off s
  | .ldaDirX off => Sys2Proof.Machine.execLdaDirX off s
  | .ldxDirY off => Sys2Proof.Machine.execLdxDirY off s
  | .ldaDirLongY off => Sys2Proof.Machine.execLdaDirLongY off s
  | .ldaAbsY a => Sys2Proof.Machine.execLdaAbsY a s
  | .ldyAbsX a => Sys2Proof.Machine.execLdyAbsX a s
  | .ldaAbsX a => Sys2Proof.Machine.execLdaAbsX a s
  | .ldxAbsY a => Sys2Proof.Machine.execLdxAbsY a s
  | .ldaLongX a => Sys2Proof.Machine.execLdaLongX a s
  | .cpyImm v => Sys2Proof.Machine.execCpyImm v s
  | .cmpDirXInd off => Sys2Proof.Machine.execCmpDirXInd off s
  | .repImm v => Sys2Proof.Machine.execRepImm v s
  | .cmpStk off => Sys2Proof.Machine.execCmpStk off s
  | .cpyDir off => Sys2Proof.Machine.execCpyDir off s
  | .cmpDir off => Sys2Proof.Machine.execCmpDir off s
  | .decDir off => Sys2Proof.Machine.execDecDir off s
  | .cmpDirLong off => Sys2Proof.Machine.execCmpDirLong off s
  | .cmpImm v => Sys2Proof.Machine.execCmpImm v s
  | .cpyAbs a => Sys2Proof.Machine.execCpyAbs a s
  | .cmpAbs a => Sys2Proof.Machine.execCmpAbs a s
  | .decAbs a => Sys2Proof.Machine.execDecAbs a s
  | .cmpLong a => Sys2Proof.Machine.execCmpLong a s
  | .bne disp => Sys2Proof.Machine.execBne disp s
  | .cmpDirIndY off => Sys2Proof.Machine.execCmpDirIndY off s
  | .cmpDirInd off => Sys2Proof.Machine.execCmpDirInd off s
  | .cmpStkIndY off => Sys2Proof.Machine.execCmpStkIndY off s
  | .pei off => Sys2Proof.Machine.execPei off s
  | .cmpDirX off => Sys2Proof.Machine.execCmpDirX off s
  | .decDirX off => Sys2Proof.Machine.execDecDirX off s
  | .cmpDirLongY off => Sys2Proof.Machine.execCmpDirLongY off s
  | .cmpAbsY a => Sys2Proof.Machine.execCmpAbsY a s
  | .jmlAbsInd a => Sys2Proof.Machine.execJmlAbsInd a s
  | .cmpAbsX a => Sys2Proof.Machine.execCmpAbsX a s
  | .decAbsX a => Sys2Proof.Machine.execDecAbsX a s
  | .cmpLongX a => Sys2Proof.Machine.execCmpLongX a s
  | .cpxImm v => Sys2Proof.Machine.execCpxImm v s
  | .sbcDirXInd off => Sys2Proof.Machine.execSbcDirXInd off s
  | .sepImm v => Sys2Proof.Machine.execSepImm v s
  | .sbcStk off => Sys2Proof.Machine.execSbcStk off s
  | .cpxDir off => Sys2Proof.Machine.execCpxDir off s
  | .sbcDir off => Sys2Proof.Machine.execSbcDir off s
  | .incDir off => Sys2Proof.Machine.execIncDir off s
  | .sbcDirLong off => Sys2Proof.Machine.execSbcDirLong off s
  | .sbcImm v => Sys2Proof.Machine.execSbcImm v s
  | .cpxAbs a => Sys2Proof.Machine.execCpxAbs a s
  | .sbcAbs a => Sys2Proof.Machine.execSbcAbs a s
  | .incAbs a => Sys2Proof.Machine.execIncAbs a s
  | .sbcLong a => Sys2Proof.Machine.execSbcLong a s
  | .beq disp => Sys2Proof.Machine.execBeq disp s
  | .sbcDirIndY off => Sys2Proof.Machine.execSbcDirIndY off s
  | .sbcDirInd off => Sys2Proof.Machine.execSbcDirInd off s
  | .sbcStkIndY off => Sys2Proof.Machine.execSbcStkIndY off s
  | .pea v => Sys2Proof.Machine.execPea v s
  | .sbcDirX off => Sys2Proof.Machine.execSbcDirX off s
  | .incDirX off => Sys2Proof.Machine.execIncDirX off s
  | .sbcDirLongY off => Sys2Proof.Machine.execSbcDirLongY off s
  | .sbcAbsY a => Sys2Proof.Machine.execSbcAbsY a s
  | .jsrAbsXInd a => Sys2Proof.Machine.execJsrAbsXInd a s
  | .sbcAbsX a => Sys2Proof.Machine.execSbcAbsX a s
  | .incAbsX a => Sys2Proof.Machine.execIncAbsX a s
  | .sbcLongX a => Sys2Proof.Machine.execSbcLongX a s
  | .php => Sys2Proof.Machine.execPhp s
  | .aslAcc => Sys2Proof.Machine.execAslAcc s
  | .phd => Sys2Proof.Machine.execPhd s
  | .clc => Sys2Proof.Machine.execClc s
  | .incAcc => Sys2Proof.Machine.execIncAcc s
  | .tcs => Sys2Proof.Machine.execTcs s
  | .plp => Sys2Proof.Machine.execPlp s
  | .rolAcc => Sys2Proof.Machine.execRolAcc s
  | .pld => Sys2Proof.Machine.execPld s
  | .sec => Sys2Proof.Machine.execSec s
  | .decAcc => Sys2Proof.Machine.execDecAcc s
  | .tsc => Sys2Proof.Machine.execTsc s
  | .rti => Sys2Proof.Machine.execRti s
  | .pha => Sys2Proof.Machine.execPha s
  | .lsrAcc => Sys2Proof.Machine.execLsrAcc s
  | .phk => Sys2Proof.Machine.execPhk s
  | .cli => Sys2Proof.Machine.execCli s
  | .phy => Sys2Proof.Machine.execPhy s
  | .tcd => Sys2Proof.Machine.execTcd s
  | .rts => Sys2Proof.Machine.execRts s
  | .pla => Sys2Proof.Machine.execPla s
  | .rorAcc => Sys2Proof.Machine.execRorAcc s
  | .rtl => Sys2Proof.Machine.execRtl s
  | .sei => Sys2Proof.Machine.execSei s
  | .ply => Sys2Proof.Machine.execPly s
  | .tdc => Sys2Proof.Machine.execTdc s
  | .dey => Sys2Proof.Machine.execDey s
  | .txa => Sys2Proof.Machine.execTxa s
  | .phb => Sys2Proof.Machine.execPhb s
  | .tya => Sys2Proof.Machine.execTya s
  | .txs => Sys2Proof.Machine.execTxs s
  | .txy => Sys2Proof.Machine.execTxy s
  | .tay => Sys2Proof.Machine.execTay s
  | .tax => Sys2Proof.Machine.execTax s
  | .plb => Sys2Proof.Machine.execPlb s
  | .clv => Sys2Proof.Machine.execClv s
  | .tsx => Sys2Proof.Machine.execTsx s
  | .tyx => Sys2Proof.Machine.execTyx s
  | .iny => Sys2Proof.Machine.execIny s
  | .dex => Sys2Proof.Machine.execDex s
  | .wai => Sys2Proof.Machine.execWai s
  | .cld => Sys2Proof.Machine.execCld s
  | .phx => Sys2Proof.Machine.execPhx s
  | .stp => Sys2Proof.Machine.execStp s
  | .inx => Sys2Proof.Machine.execInx s
  | .nop => Sys2Proof.Machine.execNop s
  | .xba => Sys2Proof.Machine.execXba s
  | .sed => Sys2Proof.Machine.execSed s
  | .plx => Sys2Proof.Machine.execPlx s
  | .xce => Sys2Proof.Machine.execXce s

end Sys2Proof.Machine
end

