-- ==== Sys2Proof/Machine/Boundary.lean ====
section
/-!
DEFINITION. What happens at a step boundary (60_exceptions.md R403): the platform's inputs are presented,
then reset, the stopped and the waiting state, the interrupt test in priority order (R402), and
otherwise one instruction; and the abort of what the machine does (R420, R421).
-/

namespace Sys2Proof.Machine

/-! ### ABORT- (W65C816 only) -/

/-- An access that a range names. -/
def AbortRange.names (r : AbortRange) (a : BusAccess) : Bool :=
  decide (r.lo ≤ a.addr) && decide (a.addr ≤ r.hi) && decide (a.kind ∈ r.kinds)

/-- External hardware answers this access with ABORT- (R420, D5). There is no ABORT- on the W65C802. -/
def State.rejects (s : State) (a : BusAccess) : Bool :=
  s.cfg.variant == .w65c816 && s.abortRanges.any fun r => r.names a

/-- External hardware answers this write with ABORT- and blocks it (R420). -/
def State.blocks (s : State) (a : BusAccess) : Bool :=
  s.cfg.variant == .w65c816 && s.abortRanges.any fun r => r.names a && r.blocks

/-- What the machine does in a step, as far as a late ABORT- tells it apart (R421). -/
inductive AbortClass where
  /-- An instruction R421 does not name. -/
  | plain
  /-- A read-modify-write of memory (R421 (a)). -/
  | modify
  /-- RTI (R421 (b)). -/
  | rti
  /-- BRK, COP and the hardware interrupt sequences (R421 (c)). -/
  | sequence
deriving DecidableEq, Repr

/-- The class of an instruction (R421). -/
def abortClass : Instr → AbortClass
  | .aslDir _ | .aslDirX _ | .aslAbs _ | .aslAbsX _ => .modify
  | .lsrDir _ | .lsrDirX _ | .lsrAbs _ | .lsrAbsX _ => .modify
  | .rolDir _ | .rolDirX _ | .rolAbs _ | .rolAbsX _ => .modify
  | .rorDir _ | .rorDirX _ | .rorAbs _ | .rorAbsX _ => .modify
  | .incDir _ | .incDirX _ | .incAbs _ | .incAbsX _ => .modify
  | .decDir _ | .decDirX _ | .decAbs _ | .decAbsX _ => .modify
  | .tsbDir _ | .tsbAbs _ | .trbDir _ | .trbAbs _ => .modify
  | .rti => .rti
  | .brk _ | .cop _ => .sequence
  | _ => .plain

/-- An access that lies after the last abortable cycle of its class (R421): the write-back of a
read-modify-write, the pulls of RTI, the pushes and vector reads of an interrupt sequence. -/
def lateAccess (cls : AbortClass) (k : BusKind) : Bool :=
  match cls with
  | .plain => false
  | .modify => k == .write
  | .rti => k == .read
  | .sequence => k == .write || k == .vector

/-- When ABORT- came in a step: `some false` early, `some true` late, `none` not at all. -/
def State.abortTime (t : State) (cls : AbortClass) (pin : AbortInput) : Option Bool :=
  let bus := (t.bus.find? t.rejects).map fun a => lateAccess cls a.kind
  if pin = .early ∨ bus = some false then some false
  else if pin = .late ∨ bus = some true then some true
  else none

/-- Memory after the writes of a step, less those external hardware blocks (R420). -/
def State.unblocked (t : State) (start : Memory) : Memory :=
  t.bus.foldl (fun m a => if isWrite a.kind && !t.blocks a then m.put t.owned a.addr a.data else m) start

/-- Every register of R420 step 3 as it was before, the latch set, the writes kept. -/
def State.restored (before t : State) : State :=
  { t with
    c := before.c
    x := before.x
    y := before.y
    sp := before.sp
    d := before.d
    dbr := before.dbr
    pbr := before.pbr
    pc := before.pc
    p := before.p
    e := before.e
    abortPending := true
    mem := t.unblocked before.mem }

/-- The partial updates of a late ABORT- (R421): the status register of a read-modify-write or of RTI,
the bank registers of an interrupt sequence. -/
def lateUpdate (cls : AbortClass) (t r : State) : State :=
  match cls with
  | .plain => r
  | .modify => { r with p := t.p }
  | .rti => r.loadP t.p
  | .sequence => { r with pbr := 0x00, dbr := if r.e then 0x00 else r.dbr }

/-- The end of a step's instruction or sequence: unchanged without ABORT-; with it the registers are
restored (R420), less the updates of a late one (R421). A WAI or STP whose own cycles are aborted still
waits or stops (R435). -/
def State.settle (before : State) (cls : AbortClass) (pin : AbortInput) (t : State) : State :=
  match t.abortTime cls pin with
  | none => t
  | some late =>
    if t.waiting || t.stopped then { t with abortPending := true }
    else if late then lateUpdate cls t (before.restored t) else before.restored t

/-! ### The platform's inputs (D2) -/

/-- The inputs of this boundary taken in: levels, edges into their latches, SO- into V on the W65C802
(R35, R441, D8), a boundary pulse of ABORT- into its latch on the W65C816, the bytes the platform sets into
the address space, its answers to the accesses of this step (R62, D1), the accesses it answers with ABORT- from now
on, where it changes them (R420, D5). The bus record starts empty. When the platform presents nothing more, the
levels and those accesses stay. -/
def State.present (s : State) : State :=
  match s.inputs with
  | [] => { s with bus := [], answers := [] }
  | i :: rest =>
    { s with
      bus := []
      inputs := rest
      resLow := i.resLow
      irqLow := i.irqLow
      rdyForcedHigh := i.rdyForcedHigh
      nmiPending := s.nmiPending || i.nmiEdge
      abortPending := s.abortPending || (s.cfg.variant == .w65c816 && i.abort == .boundary)
      p := if s.cfg.variant = .w65c802 ∧ i.soEdge = true then putFlag s.p .v true else s.p
      mem := s.mem.setAll (physSize s.cfg.variant) i.sets
      answers := i.answers
      abortRanges := i.abortRanges.getD s.abortRanges }

/-- The ABORT- input during what the machine does next; there is none on the W65C802 (R6). -/
def State.abortPin (s : State) : AbortInput :=
  match s.inputs with
  | [] => .none
  | i :: _ => if s.cfg.variant = .w65c816 then i.abort else .none

/-! ### Reset (R450) -/

/-- The machine while RES- is low (R450 steps 1 and 2): what reset initialises, free values in what it
does not, every latch cleared. -/
def State.holdReset (s : State) : State :=
  let u := Config.resetDraw s.draws
  { State.resetWith s.cfg s.mem u with
    pc := s.pc
    resLow := s.resLow
    irqLow := s.irqLow
    rdyForcedHigh := s.rdyForcedHigh
    inReset := true
    bus := s.bus
    inputs := s.inputs
    owned := s.owned
    answers := s.answers
    abortRanges := s.abortRanges
    draws := s.draws + 1 }

/-- The reset sequence when RES- is high again (R417, R450 step 3): nothing is pushed, PC is loaded from
the reset vector, the latches are clear (D6). ABORT- has no effect in it, nor while RES- is low: the spec names no
such abort. DESIGN CHOICE, unsafe: notes/assumptions/41. -/
def State.resetSequence (s : State) : State :=
  State.loadVector { s with inReset := false, nmiPending := false, abortPending := false } resetVector

/-! ### Waiting (R435) -/

/-- NMI- or IRQ- ends the wait, whatever I is (R435 (a)). -/
def State.wakes (s : State) : Bool := s.nmiPending || s.irqLow

/-- ABORT- during the wait sets its latch and does not end the wait (R435 (a), C12). -/
def State.latchAbort (s : State) (pin : AbortInput) : State :=
  { s with abortPending := s.abortPending || (pin == .early || pin == .late) }

/-! ### Fetching -/

/-- How many of an instruction's bytes are fetched only during its execution (R307, R308). -/
def lateBytes : Instr → Nat
  | .jsrAbsXInd _ => 1
  | .jslLong _ => 1
  | _ => 0

/-- The four bytes at PBR:PC, the offset wrapping in the bank (R90). -/
def State.codeBytes (s : State) : List Byte :=
  s.peek .opcode (s.codeAddr 0) :: (List.range 3).map fun k => s.peek .operand (s.codeAddr (k + 1))

/-- The fetches of an instruction's bytes on the bus: the opcode, then the operand bytes (R68 (a)). -/
def State.noteFetch (s : State) (i : Instr) : State :=
  s.note (s.readAccess .opcode false (s.codeAddr 0) ::
    (List.range (instrLength i - 1 - lateBytes i)).map fun k => s.readAccess .operand false (s.codeAddr (k + 1)))

/-- The instruction at PBR:PC under the width flags P.M and P.X (R90, R93). -/
def State.decoded (s : State) : Except DecodeError (Instr × List Byte) :=
  decode (getFlag s.p .m) (getFlag s.p .x) s.codeBytes

/-- Fetches, decodes and executes one instruction (R403 step 7). -/
def State.runInstr (s : State) (pin : AbortInput) : Host.Outcome State Fault Refusal :=
  match s.decoded with
  | .error _ => .fault .undecodable
  | .ok r =>
    match exec r.1 (s.noteFetch r.1) with
    | .next t => .next (s.settle (abortClass r.1) pin t)
    | .fault f => .fault f
    | .refused f => .refused f

/-! ### The boundary -/

/-- A hardware interrupt sequence from a state with a return address (R410, R411). The return address is
put into PC first, which an abort of the sequence then leaves there. -/
def State.takeInterrupt (s : State) (src : Source) (ret : Word) (pin : AbortInput) : State :=
  let before := s.setPc ret
  before.settle .sequence pin (before.interrupt src ret)

/-- The return address of the abort sequence: the aborted opcode, which is that of the WAI when ABORT-
came during a wait (R411 rows 3 and 4). -/
def State.abortReturn (s : State) (waited : Bool) : Word := if waited then s.pc - 1 else s.pc

/-- The boundary test of R403 steps 4 to 7, in the priority order of R402. -/
def State.boundary (s : State) (waited : Bool) (pin : AbortInput) : Host.Outcome State Fault Refusal :=
  if s.abortPending = true ∧ s.cfg.variant = .w65c816 then
    .next (State.takeInterrupt { s with abortPending := false } .abort (s.abortReturn waited) pin)
  else if s.nmiPending = true then
    .next (State.takeInterrupt { s with nmiPending := false } .nmi s.pc pin)
  else if s.irqLow = true ∧ getFlag s.p .i = false then
    .next (s.takeInterrupt .irq s.pc pin)
  else s.runInstr pin

/-- R403 from the boundary on, the inputs having been presented. -/
def State.proceed (s : State) (pin : AbortInput) : Host.Outcome State Fault Refusal :=
  if s.resLow then .next s.holdReset
  else if s.inReset then .next s.resetSequence
  else if s.stopped then .next s
  else if s.waiting && !s.wakes then .next (s.latchAbort pin)
  else State.boundary { s with waiting := false } s.waiting pin

/-! ### Placing an instruction -/

/-- Bytes stored one after the other from the `k`-th byte of the instruction at PBR:PC on. -/
def State.placeBytes (s : State) (k : Nat) : List Byte → State
  | [] => s
  | b :: rest =>
    State.placeBytes { s with mem := s.mem.write (phys s.cfg.variant (s.codeAddr k)) b } (k + 1) rest

/-- The state with nothing in the way of the next fetch: not in reset, stopped or waiting, no interrupt
pending, no input coming. -/
def State.ready (s : State) : State :=
  { s with
    waiting := false
    stopped := false
    nmiPending := false
    abortPending := false
    resLow := false
    irqLow := false
    inReset := false
    inputs := []
    answers := []
    abortRanges := [] }

end Sys2Proof.Machine
end

