-- ==== Sys2Proof/Machine/Step.lean ====
section
/-!
DEFINITION. The step of the machine (60_exceptions.md R403) and the placing of an instruction where the
step fetches.
-/

namespace Sys2Proof.Machine

/-- One step: the platform's inputs are presented, then R403 decides what happens. -/
def step (s : State) : Host.Outcome State Fault Refusal :=
  s.present.proceed s.abortPin

/-- The state with the instruction of a table word at PBR:PC and nothing in the way of its fetch
(notes/assumptions/21). -/
def State.withFetchWord (s : State) (nbits w : Nat) : State :=
  s.ready.placeBytes 0 (tableBytes (w % 2 ^ nbits))

end Sys2Proof.Machine
end

