-- ==== Sys2Proof/Machine/Pins.lean ====
section
/-!
DEFINITION. The output pins (10_state.md R36, 60_exceptions.md R440): functions of the state and of one
bus access. No program reads them and no step depends on them.
-/

namespace Sys2Proof.Machine

/-- The package: the 44-pin W65C802 has pins the 40-pin one lacks (R433, R440). -/
inductive Package where
  | pins40
  | pins44
deriving DecidableEq, Repr

/-- The output pins of R440. -/
inductive OutputPin where
  | rw
  | vda
  | vpa
  | sync
  | vp
  | ml
  | e
  | mx
  | phi1Out
  | phi2Out
  | rdy
deriving DecidableEq, Repr

/-- Which part has which pin (R440). -/
def hasPin (v : Variant) (k : Package) : OutputPin → Bool
  | .rw => true
  | .rdy => true
  | .vda => v == .w65c816
  | .vpa => v == .w65c816
  | .mx => v == .w65c816
  | .sync => v == .w65c802
  | .phi1Out => v == .w65c802
  | .phi2Out => v == .w65c802
  | .vp => v == .w65c816 || k == .pins44
  | .ml => v == .w65c816 || k == .pins44
  | .e => v == .w65c816 || k == .pins44

/-- R/W- during an access: high for a read, low for a write and, in the modify cycle of a
read-modify-write with E = 1, for the write of the unmodified byte. -/
def BusAccess.rw (a : BusAccess) : Bool := !isWrite a.kind

/-- VDA during an access: a valid data address or an opcode fetch. R440 does not name the bytes of pointers, the
vector bytes and the stack bytes one by one, and the spec takes no pin columns from Table 6-5, most of which are
lost (N2): the model counts each of them as data, the pointer bytes that JMP (a,x) and JSR (a,x) read from the
program bank among them. DESIGN CHOICE: notes/assumptions/39. -/
def BusAccess.vda (a : BusAccess) : Bool :=
  match a.kind with
  | .opcode => true
  | .read => true
  | .pointer => true
  | .write => true
  | .modify => true
  | .vector => true
  | .operand => false
  | .spurious => false

/-- VPA during an access: a valid program address (an operand byte of the instruction stream) or an opcode fetch.
Low for every other access, also for the pointer bytes that JMP (a,x) and JSR (a,x) read from the program bank,
which R440 does not name (N2). DESIGN CHOICE: notes/assumptions/39. -/
def BusAccess.vpa (a : BusAccess) : Bool :=
  match a.kind with
  | .opcode => true
  | .operand => true
  | .read => false
  | .pointer => false
  | .write => false
  | .modify => false
  | .vector => false
  | .spurious => false

/-- SYNC during an access: high during an opcode fetch. -/
def BusAccess.sync (a : BusAccess) : Bool := a.kind == .opcode

/-- VP- during an access: low during the reads of a vector. -/
def BusAccess.vp (a : BusAccess) : Bool := a.kind != .vector

/-- ML- during an access: low during the read, modify and write cycles of a read-modify-write (R433). -/
def BusAccess.ml (a : BusAccess) : Bool := !a.lock

/-- The two halves of PHI2 at which M/X is read. -/
inductive ClockEdge where
  | falling
  | rising
deriving DecidableEq, Repr

/-- The E pin (R36). -/
def State.ePin (s : State) : Bool := s.e

/-- REP, SEP and PLP may change M and X and leave the M/X output invalid for one cycle (R461). -/
def disturbsMX : Instr → Bool
  | .repImm _ => true
  | .sepImm _ => true
  | .plp => true
  | _ => false

/-- The M/X pin (R36, R440): P.M on the falling edge of PHI2, P.X on the rising one. `none`: invalid, in
the opcode fetch cycle that follows REP, SEP or PLP (R461). -/
def State.mxPin (s : State) (previous : Option Instr) (opcodeFetch : Bool) (edge : ClockEdge) : Option Bool :=
  if opcodeFetch && (previous.map disturbsMX).getD false then none
  else match edge with
    | .falling => some (getFlag s.p .m)
    | .rising => some (getFlag s.p .x)

/-- RDY as the processor drives it: pulled low while it waits (R435). -/
def State.rdyPin (s : State) : Bool := !s.waiting

/-- STP disables the PHI2 clock of both parts (R364). -/
def State.clockStopped (s : State) : Bool := s.stopped

/-- What a clock output does: it runs, or it is held at a level. -/
inductive ClockOut where
  | running
  | low
  | high
deriving DecidableEq, Repr

/-- PHI1(OUT) of the W65C802: STP holds it low (R440). -/
def State.phi1Out (s : State) : ClockOut := if s.clockStopped then .low else .running

/-- PHI2(OUT) of the W65C802: STP holds it high (R440). -/
def State.phi2Out (s : State) : ClockOut := if s.clockStopped then .high else .running

/-- The outputs E, M/X, R/W-, VDA, VP-, VPA, SYNC while RES- is low (R450 step 1). -/
structure ResetPins where
  e : Bool
  mx : Bool
  rw : Bool
  vda : Bool
  vp : Bool
  vpa : Bool
  sync : Bool
deriving DecidableEq, Repr

/-- The values of R450 step 1. -/
def resetPins : ResetPins :=
  { e := true, mx := true, rw := true, vda := false, vp := true, vpa := false, sync := false }

end Sys2Proof.Machine
end

