-- ==== Sys2Proof/Machine/Forms.lean ====
section
/-!
DEFINITION. The instructions sorted by what they do with an operand (30_encoding.md R95): those that read
one, those that store to memory, those that read, modify and write memory, and those that modify the
accumulator; with the operand form each constructor has. The cycle counts and the statements about the
machine range over these.
-/

namespace Sys2Proof.Machine

/-- The mnemonics that only read their operand. -/
inductive ReadOp where
  | ora
  | and
  | eor
  | adc
  | sbc
  | cmp
  | bit
  | lda
  | ldx
  | ldy
  | cpx
  | cpy
deriving DecidableEq, Repr

/-- The mnemonics that only store. -/
inductive StoreOp where
  | sta
  | stx
  | sty
  | stz
deriving DecidableEq, Repr

/-- The mnemonics that read, modify and write (R180). -/
inductive ModifyOp where
  | asl
  | lsr
  | rol
  | ror
  | inc
  | dec
  | tsb
  | trb
deriving DecidableEq, Repr

/-- The mnemonic and the operand of an instruction that only reads it. -/
def readForm : Instr → Option (ReadOp × Operand)
  | .oraDirXInd off => some (.ora, .mem (.dirXInd off))
  | .oraStk off => some (.ora, .mem (.stk off))
  | .oraDir off => some (.ora, .mem (.dir off))
  | .oraDirLong off => some (.ora, .mem (.dirLong off))
  | .oraImm v => some (.ora, .imm v)
  | .oraAbs a => some (.ora, .mem (.abs a))
  | .oraLong a => some (.ora, .mem (.long a))
  | .oraDirIndY off => some (.ora, .mem (.dirIndY off))
  | .oraDirInd off => some (.ora, .mem (.dirInd off))
  | .oraStkIndY off => some (.ora, .mem (.stkIndY off))
  | .oraDirX off => some (.ora, .mem (.dirX off))
  | .oraDirLongY off => some (.ora, .mem (.dirLongY off))
  | .oraAbsY a => some (.ora, .mem (.absY a))
  | .oraAbsX a => some (.ora, .mem (.absX a))
  | .oraLongX a => some (.ora, .mem (.longX a))
  | .andDirXInd off => some (.and, .mem (.dirXInd off))
  | .andStk off => some (.and, .mem (.stk off))
  | .bitDir off => some (.bit, .mem (.dir off))
  | .andDir off => some (.and, .mem (.dir off))
  | .andDirLong off => some (.and, .mem (.dirLong off))
  | .andImm v => some (.and, .imm v)
  | .bitAbs a => some (.bit, .mem (.abs a))
  | .andAbs a => some (.and, .mem (.abs a))
  | .andLong a => some (.and, .mem (.long a))
  | .andDirIndY off => some (.and, .mem (.dirIndY off))
  | .andDirInd off => some (.and, .mem (.dirInd off))
  | .andStkIndY off => some (.and, .mem (.stkIndY off))
  | .bitDirX off => some (.bit, .mem (.dirX off))
  | .andDirX off => some (.and, .mem (.dirX off))
  | .andDirLongY off => some (.and, .mem (.dirLongY off))
  | .andAbsY a => some (.and, .mem (.absY a))
  | .bitAbsX a => some (.bit, .mem (.absX a))
  | .andAbsX a => some (.and, .mem (.absX a))
  | .andLongX a => some (.and, .mem (.longX a))
  | .eorDirXInd off => some (.eor, .mem (.dirXInd off))
  | .eorStk off => some (.eor, .mem (.stk off))
  | .eorDir off => some (.eor, .mem (.dir off))
  | .eorDirLong off => some (.eor, .mem (.dirLong off))
  | .eorImm v => some (.eor, .imm v)
  | .eorAbs a => some (.eor, .mem (.abs a))
  | .eorLong a => some (.eor, .mem (.long a))
  | .eorDirIndY off => some (.eor, .mem (.dirIndY off))
  | .eorDirInd off => some (.eor, .mem (.dirInd off))
  | .eorStkIndY off => some (.eor, .mem (.stkIndY off))
  | .eorDirX off => some (.eor, .mem (.dirX off))
  | .eorDirLongY off => some (.eor, .mem (.dirLongY off))
  | .eorAbsY a => some (.eor, .mem (.absY a))
  | .eorAbsX a => some (.eor, .mem (.absX a))
  | .eorLongX a => some (.eor, .mem (.longX a))
  | .adcDirXInd off => some (.adc, .mem (.dirXInd off))
  | .adcStk off => some (.adc, .mem (.stk off))
  | .adcDir off => some (.adc, .mem (.dir off))
  | .adcDirLong off => some (.adc, .mem (.dirLong off))
  | .adcImm v => some (.adc, .imm v)
  | .adcAbs a => some (.adc, .mem (.abs a))
  | .adcLong a => some (.adc, .mem (.long a))
  | .adcDirIndY off => some (.adc, .mem (.dirIndY off))
  | .adcDirInd off => some (.adc, .mem (.dirInd off))
  | .adcStkIndY off => some (.adc, .mem (.stkIndY off))
  | .adcDirX off => some (.adc, .mem (.dirX off))
  | .adcDirLongY off => some (.adc, .mem (.dirLongY off))
  | .adcAbsY a => some (.adc, .mem (.absY a))
  | .adcAbsX a => some (.adc, .mem (.absX a))
  | .adcLongX a => some (.adc, .mem (.longX a))
  | .bitImm v => some (.bit, .imm v)
  | .ldyImm v => some (.ldy, .imm v)
  | .ldaDirXInd off => some (.lda, .mem (.dirXInd off))
  | .ldxImm v => some (.ldx, .imm v)
  | .ldaStk off => some (.lda, .mem (.stk off))
  | .ldyDir off => some (.ldy, .mem (.dir off))
  | .ldaDir off => some (.lda, .mem (.dir off))
  | .ldxDir off => some (.ldx, .mem (.dir off))
  | .ldaDirLong off => some (.lda, .mem (.dirLong off))
  | .ldaImm v => some (.lda, .imm v)
  | .ldyAbs a => some (.ldy, .mem (.abs a))
  | .ldaAbs a => some (.lda, .mem (.abs a))
  | .ldxAbs a => some (.ldx, .mem (.abs a))
  | .ldaLong a => some (.lda, .mem (.long a))
  | .ldaDirIndY off => some (.lda, .mem (.dirIndY off))
  | .ldaDirInd off => some (.lda, .mem (.dirInd off))
  | .ldaStkIndY off => some (.lda, .mem (.stkIndY off))
  | .ldyDirX off => some (.ldy, .mem (.dirX off))
  | .ldaDirX off => some (.lda, .mem (.dirX off))
  | .ldxDirY off => some (.ldx, .mem (.dirY off))
  | .ldaDirLongY off => some (.lda, .mem (.dirLongY off))
  | .ldaAbsY a => some (.lda, .mem (.absY a))
  | .ldyAbsX a => some (.ldy, .mem (.absX a))
  | .ldaAbsX a => some (.lda, .mem (.absX a))
  | .ldxAbsY a => some (.ldx, .mem (.absY a))
  | .ldaLongX a => some (.lda, .mem (.longX a))
  | .cpyImm v => some (.cpy, .imm v)
  | .cmpDirXInd off => some (.cmp, .mem (.dirXInd off))
  | .cmpStk off => some (.cmp, .mem (.stk off))
  | .cpyDir off => some (.cpy, .mem (.dir off))
  | .cmpDir off => some (.cmp, .mem (.dir off))
  | .cmpDirLong off => some (.cmp, .mem (.dirLong off))
  | .cmpImm v => some (.cmp, .imm v)
  | .cpyAbs a => some (.cpy, .mem (.abs a))
  | .cmpAbs a => some (.cmp, .mem (.abs a))
  | .cmpLong a => some (.cmp, .mem (.long a))
  | .cmpDirIndY off => some (.cmp, .mem (.dirIndY off))
  | .cmpDirInd off => some (.cmp, .mem (.dirInd off))
  | .cmpStkIndY off => some (.cmp, .mem (.stkIndY off))
  | .cmpDirX off => some (.cmp, .mem (.dirX off))
  | .cmpDirLongY off => some (.cmp, .mem (.dirLongY off))
  | .cmpAbsY a => some (.cmp, .mem (.absY a))
  | .cmpAbsX a => some (.cmp, .mem (.absX a))
  | .cmpLongX a => some (.cmp, .mem (.longX a))
  | .cpxImm v => some (.cpx, .imm v)
  | .sbcDirXInd off => some (.sbc, .mem (.dirXInd off))
  | .sbcStk off => some (.sbc, .mem (.stk off))
  | .cpxDir off => some (.cpx, .mem (.dir off))
  | .sbcDir off => some (.sbc, .mem (.dir off))
  | .sbcDirLong off => some (.sbc, .mem (.dirLong off))
  | .sbcImm v => some (.sbc, .imm v)
  | .cpxAbs a => some (.cpx, .mem (.abs a))
  | .sbcAbs a => some (.sbc, .mem (.abs a))
  | .sbcLong a => some (.sbc, .mem (.long a))
  | .sbcDirIndY off => some (.sbc, .mem (.dirIndY off))
  | .sbcDirInd off => some (.sbc, .mem (.dirInd off))
  | .sbcStkIndY off => some (.sbc, .mem (.stkIndY off))
  | .sbcDirX off => some (.sbc, .mem (.dirX off))
  | .sbcDirLongY off => some (.sbc, .mem (.dirLongY off))
  | .sbcAbsY a => some (.sbc, .mem (.absY a))
  | .sbcAbsX a => some (.sbc, .mem (.absX a))
  | .sbcLongX a => some (.sbc, .mem (.longX a))
  | _ => none

/-- The mnemonic and the destination of a store. -/
def storeForm : Instr → Option (StoreOp × MemMode)
  | .stzDir off => some (.stz, .dir off)
  | .stzDirX off => some (.stz, .dirX off)
  | .staDirXInd off => some (.sta, .dirXInd off)
  | .staStk off => some (.sta, .stk off)
  | .styDir off => some (.sty, .dir off)
  | .staDir off => some (.sta, .dir off)
  | .stxDir off => some (.stx, .dir off)
  | .staDirLong off => some (.sta, .dirLong off)
  | .styAbs a => some (.sty, .abs a)
  | .staAbs a => some (.sta, .abs a)
  | .stxAbs a => some (.stx, .abs a)
  | .staLong a => some (.sta, .long a)
  | .staDirIndY off => some (.sta, .dirIndY off)
  | .staDirInd off => some (.sta, .dirInd off)
  | .staStkIndY off => some (.sta, .stkIndY off)
  | .styDirX off => some (.sty, .dirX off)
  | .staDirX off => some (.sta, .dirX off)
  | .stxDirY off => some (.stx, .dirY off)
  | .staDirLongY off => some (.sta, .dirLongY off)
  | .staAbsY a => some (.sta, .absY a)
  | .stzAbs a => some (.stz, .abs a)
  | .staAbsX a => some (.sta, .absX a)
  | .stzAbsX a => some (.stz, .absX a)
  | .staLongX a => some (.sta, .longX a)
  | _ => none

/-- The mnemonic and the operand of a read-modify-write of memory. -/
def modifyForm : Instr → Option (ModifyOp × MemMode)
  | .tsbDir off => some (.tsb, .dir off)
  | .aslDir off => some (.asl, .dir off)
  | .tsbAbs a => some (.tsb, .abs a)
  | .aslAbs a => some (.asl, .abs a)
  | .trbDir off => some (.trb, .dir off)
  | .aslDirX off => some (.asl, .dirX off)
  | .trbAbs a => some (.trb, .abs a)
  | .aslAbsX a => some (.asl, .absX a)
  | .rolDir off => some (.rol, .dir off)
  | .rolAbs a => some (.rol, .abs a)
  | .rolDirX off => some (.rol, .dirX off)
  | .rolAbsX a => some (.rol, .absX a)
  | .lsrDir off => some (.lsr, .dir off)
  | .lsrAbs a => some (.lsr, .abs a)
  | .lsrDirX off => some (.lsr, .dirX off)
  | .lsrAbsX a => some (.lsr, .absX a)
  | .rorDir off => some (.ror, .dir off)
  | .rorAbs a => some (.ror, .abs a)
  | .rorDirX off => some (.ror, .dirX off)
  | .rorAbsX a => some (.ror, .absX a)
  | .decDir off => some (.dec, .dir off)
  | .decAbs a => some (.dec, .abs a)
  | .decDirX off => some (.dec, .dirX off)
  | .decAbsX a => some (.dec, .absX a)
  | .incDir off => some (.inc, .dir off)
  | .incAbs a => some (.inc, .abs a)
  | .incDirX off => some (.inc, .dirX off)
  | .incAbsX a => some (.inc, .absX a)
  | _ => none

/-- The mnemonic of an operation on the accumulator in mode `A` (R127). -/
def accForm : Instr → Option ModifyOp
  | .aslAcc => some .asl
  | .incAcc => some .inc
  | .rolAcc => some .rol
  | .decAcc => some .dec
  | .lsrAcc => some .lsr
  | .rorAcc => some .ror
  | _ => none

/-- The operation of a read-modify-write on a width, an operand and P (R191, R192, R197 to R202). -/
def modifyOp (acc : Word) : ModifyOp → UnaryOp
  | .asl => aslOp
  | .lsr => lsrOp
  | .rol => rolOp
  | .ror => rorOp
  | .inc => incOp
  | .dec => decOp
  | .tsb => tsbOp acc
  | .trb => trbOp acc

end Sys2Proof.Machine
end

