-- ==== Sys2Proof/Machine/Timing.lean ====
section
/-!
DEFINITION. Cycle counts (70_reset_and_hazards.md R470 to R473). "No rule of the instruction semantics
depends on them": no step reads this file.
-/

namespace Sys2Proof.Machine

/-- The base cycles of the opcodes 00 to 7F, a row for each high digit (R471). -/
def baseCyclesLow : List (List Nat) :=
  [[8, 6, 8, 4, 5, 3, 5, 6, 3, 2, 2, 4, 6, 4, 6, 5],
   [2, 5, 5, 7, 5, 4, 6, 6, 2, 4, 2, 2, 6, 4, 7, 5],
   [6, 6, 8, 4, 3, 3, 5, 6, 4, 2, 2, 5, 4, 4, 6, 5],
   [2, 5, 5, 7, 4, 4, 6, 6, 2, 4, 2, 2, 4, 4, 7, 5],
   [7, 6, 2, 4, 7, 3, 5, 6, 3, 2, 2, 3, 3, 4, 6, 5],
   [2, 5, 5, 7, 7, 4, 6, 6, 2, 4, 3, 2, 4, 4, 7, 5],
   [6, 6, 6, 4, 3, 3, 5, 6, 4, 2, 2, 6, 5, 4, 6, 5],
   [2, 5, 5, 7, 4, 4, 6, 6, 2, 4, 4, 2, 6, 4, 7, 5]]

/-- The base cycles of the opcodes 80 to FF, a row for each high digit (R471). -/
def baseCyclesHigh : List (List Nat) :=
  [[2, 6, 4, 4, 3, 3, 3, 6, 2, 2, 2, 3, 4, 4, 4, 5],
   [2, 6, 5, 7, 4, 4, 4, 6, 2, 5, 2, 2, 4, 5, 5, 5],
   [2, 6, 2, 4, 3, 3, 3, 6, 2, 2, 2, 4, 4, 4, 4, 5],
   [2, 5, 5, 7, 4, 4, 4, 6, 2, 4, 2, 2, 4, 4, 4, 5],
   [2, 6, 3, 4, 3, 3, 5, 6, 2, 2, 2, 3, 4, 4, 6, 5],
   [2, 5, 5, 7, 6, 4, 6, 6, 2, 4, 3, 3, 6, 4, 7, 5],
   [2, 6, 3, 4, 3, 3, 5, 6, 2, 2, 2, 3, 4, 4, 6, 5],
   [2, 5, 5, 7, 5, 4, 6, 6, 2, 4, 4, 2, 8, 4, 7, 5]]

/-- The base cycles of an opcode (R471): P.M = P.X = 1, DL = 00, no page crossing, branch not taken, and
for BRK, COP and RTI Native mode. -/
def baseCycles (opcode : Nat) : Nat :=
  ((baseCyclesLow ++ baseCyclesHigh).getD (opcode / 16) []).getD (opcode % 16) 0

/-- The opcode of an instruction. -/
def opcodeOf (i : Instr) : Nat := ((encode i).headD 0x00).toNat

/-- The reading mnemonics whose width is P.X's (R472 (a)). -/
def ReadOp.byX : ReadOp → Bool
  | .ldx => true
  | .ldy => true
  | .cpx => true
  | .cpy => true
  | .ora => false
  | .and => false
  | .eor => false
  | .adc => false
  | .sbc => false
  | .cmp => false
  | .bit => false
  | .lda => false

/-- The storing mnemonics whose width is P.X's (R472 (a)). -/
def StoreOp.byX : StoreOp → Bool
  | .stx => true
  | .sty => true
  | .sta => false
  | .stz => false

/-- The width flag whose clearing costs a cycle for 16-bit data (R472 (a)). -/
def dataWidthFlag (i : Instr) : Option Flag :=
  match readForm i with
  | some r => some (if r.1.byX then .x else .m)
  | none =>
    match storeForm i with
    | some r => some (if r.1.byX then .x else .m)
    | none =>
      match i with
      | .pha => some .m
      | .pla => some .m
      | .phx => some .x
      | .plx => some .x
      | .phy => some .x
      | .ply => some .x
      | _ => none

/-- The operand in memory of an instruction that has one. -/
def memForm (i : Instr) : Option MemMode :=
  match readForm i with
  | some (_, .mem m) => some m
  | some (_, .imm _) => none
  | none => ((storeForm i).map Prod.snd).or ((modifyForm i).map Prod.snd)

/-- The modes with a direct offset (R472 (c)). -/
def usesDirect : MemMode → Bool
  | .dir _ => true
  | .dirX _ => true
  | .dirY _ => true
  | .dirInd _ => true
  | .dirXInd _ => true
  | .dirIndY _ => true
  | .dirLong _ => true
  | .dirLongY _ => true
  | .abs _ => false
  | .absX _ => false
  | .absY _ => false
  | .long _ => false
  | .longX _ => false
  | .stk _ => false
  | .stkIndY _ => false

/-- Adding the index to the low address byte carries (R472 (d)). -/
def lowByteCarry (base : Addr) (idx : Word) : Bool :=
  decide (256 ≤ (loByte (offOf base)).toNat + (loByte idx).toNat)

/-- The condition and the displacement of a relative branch (R291 to R299). -/
def branchForm (p : Byte) : Instr → Option (Bool × Byte)
  | .bcc disp => some (!getFlag p .c, disp)
  | .bcs disp => some (getFlag p .c, disp)
  | .beq disp => some (getFlag p .z, disp)
  | .bmi disp => some (getFlag p .n, disp)
  | .bne disp => some (!getFlag p .z, disp)
  | .bpl disp => some (!getFlag p .n, disp)
  | .bvc disp => some (!getFlag p .v, disp)
  | .bvs disp => some (getFlag p .v, disp)
  | .bra disp => some (true, disp)
  | _ => none

/-- R472 (a): 16-bit data. -/
def State.dataCycles (s : State) (i : Instr) : Nat :=
  match dataWidthFlag i with
  | some f => if getFlag s.p f then 0 else 1
  | none => 0

/-- R472 (b): 16-bit read-modify-write. -/
def State.modifyCycles (s : State) (i : Instr) : Nat :=
  if (modifyForm i).isSome && !getFlag s.p .m then 2 else 0

/-- The instruction uses a direct offset (R472 (c)). -/
def directForm (i : Instr) : Bool :=
  match i with
  | .pei _ => true
  | _ => ((memForm i).map usesDirect).getD false

/-- R472 (c): DL is not 00. -/
def State.directCycles (s : State) (i : Instr) : Nat :=
  if directForm i && loByte s.d != 0x00 then 1 else 0

/-- R472 (d): an indexed read across a page, or with 16-bit index registers. -/
def State.crossCycles (s : State) (i : Instr) : Nat :=
  match readForm i with
  | some (_, .mem m) =>
    let b := s.baseIndex m
    if indexedAcrossPage m && (!getFlag s.p .x || lowByteCarry b.1 b.2) then 1 else 0
  | _ => 0

/-- R472 (e): a branch taken, and taken to another page in Emulation mode. -/
def State.branchCycles (s : State) (i : Instr) : Nat :=
  match branchForm s.p i with
  | some (true, disp) =>
    let next := s.pc + 2
    if s.e && hiByte (next + sext16 disp) != hiByte next then 2 else 1
  | _ => 0

/-- R472 (f): PBR is neither pushed nor pulled in Emulation mode. -/
def State.emulationSaving (s : State) (i : Instr) : Nat :=
  match i with
  | .brk _ => if s.e then 1 else 0
  | .cop _ => if s.e then 1 else 0
  | .rti => if s.e then 1 else 0
  | _ => 0

/-- The cycles of one instruction, or of one step of a block move, from the state at its opcode
(R471, R472). The time a WAI then waits is not counted. -/
def State.cycles (s : State) (i : Instr) : Nat :=
  baseCycles (opcodeOf i) + s.dataCycles i + s.modifyCycles i + s.directCycles i + s.crossCycles i
    + s.branchCycles i - s.emulationSaving i

/-- The cycles of a hardware interrupt sequence (R410, R472 (f)). -/
def sequenceCycles (e : Bool) : Nat := if e then 7 else 8

/-- The cycles of the reset sequence (R450 step 3). -/
def resetCycles : Nat := 7

/-- The cycles between the input that ends a WAI and what follows (R435, R472 (i)). -/
def wakeCycles : Nat := 2

end Sys2Proof.Machine
end

