-- ==== Sys2Proof/Safety.lean ====
section
/-!
DEFINITION. The terms the statements use. What counts as a good state and a safe run: the register
invariants the spec states for each mode (10_state.md R21, R22, R31), memory in its canonical form inside
the address space (20_memory.md R61), and a step that answers a next state (00_scope.md R12). What a flag
update, a store, a push and the entry to a handler do, said on the states before and after.
-/

namespace Sys2Proof.Machine

/-- In Emulation mode M and X are 1 (R31). -/
def State.flagsInv (s : State) : Prop :=
  s.e = true → getFlag s.p .m = true ∧ getFlag s.p .x = true

/-- In Emulation mode SH is 01 (R22). -/
def State.stackInv (s : State) : Prop := s.e = true → hiByte s.sp = 0x01

/-- Where P.X is 1, XH and YH are 00 (R21). -/
def State.indexInv (s : State) : Prop :=
  getFlag s.p .x = true → hiByte s.x = 0x00 ∧ hiByte s.y = 0x00

/-- Memory is canonical and lists physical addresses only (R61). -/
def State.memInv (s : State) : Prop :=
  Memory.wf s.mem = true ∧ Memory.below (physSize s.cfg.variant) s.mem = true

/-- The registers and memory are as the spec says they always are (R21, R22, R31, R61). -/
structure State.Inv (s : State) : Prop where
  flags : s.flagsInv
  stack : s.stackInv
  index : s.indexInv
  memory : s.memInv

/-- The states some run from a state goes through. -/
inductive Reaches (s : State) : State → Prop where
  | here : Reaches s s
  | next {t u : State} : Reaches s t → step t = .next u → Reaches s u

/-- The machine goes on from this state. -/
def Safe (s : State) : Prop := ∃ t, step s = .next t

/-! ### Flags -/

/-- From P to P': N is the top bit of the result, Z says it is zero, no other flag changes (`SetNZ`,
R13). -/
structure SetsNZ (p p' : Byte) (w : Width) (r : Word) : Prop where
  n : getFlag p' .n = r.getLsbD (widthBits w - 1)
  z : getFlag p' .z = decide (r.toNat % 2 ^ widthBits w = 0)
  rest : ∀ f, f ≠ .n → f ≠ .z → getFlag p' f = getFlag p f

/-- From P to P': N and Z as `SetNZ`, C as given, no other flag changes. -/
structure SetsNZC (p p' : Byte) (w : Width) (r : Word) (c : Bool) : Prop where
  n : getFlag p' .n = r.getLsbD (widthBits w - 1)
  z : getFlag p' .z = decide (r.toNat % 2 ^ widthBits w = 0)
  c : getFlag p' .c = c
  rest : ∀ f, f ≠ .n → f ≠ .z → f ≠ .c → getFlag p' f = getFlag p f

/-- From P to P': only the given flags may change. -/
def KeepsFlags (p p' : Byte) (l : List Flag) : Prop := ∀ f, f ∉ l → getFlag p' f = getFlag p f

/-! ### Registers -/

/-- The accumulator written at a width (R20): at 8 bits B keeps its value. -/
def AccWritten (w : Width) (c c' v : Word) : Prop :=
  (w = .w8 → hiByte c' = hiByte c ∧ loByte c' = loByte v) ∧ (w = .w16 → c' = v)

/-- An index register written at a width (R21): at 8 bits its high byte is 00. -/
def IndexWritten (w : Width) (r' v : Word) : Prop :=
  (w = .w8 → hiByte r' = 0x00 ∧ loByte r' = loByte v) ∧ (w = .w16 → r' = v)

/-- The signed value of an operand at a width. -/
def signedValue (w : Width) (v : Word) : Int :=
  match w with
  | .w8 => (loByte v).toInt
  | .w16 => v.toInt

/-- A number that a width represents as a signed number. -/
def fitsSigned (w : Width) (k : Int) : Prop := -2 ^ (widthBits w - 1) ≤ k ∧ k < 2 ^ (widthBits w - 1)

/-! ### Memory -/

/-- The physical address of byte `k` of an operand in memory. -/
def State.operandAddr (s : State) (m : MemMode) (k : Nat) : Nat :=
  phys s.cfg.variant (byteAddr (operandWrap m) (s.ea m) k)

/-- An address the platform does not own: what is written there is read there (R62, D1;
notes/assumptions/4). -/
def State.IsRam (s : State) (a : Nat) : Prop := inRanges s.owned a = false

/-- From one state to another a value has been stored to an operand: the low byte at its address, at 16
bits the high byte at the next, every other byte of memory unchanged, and every byte the platform owns. The
address is computed in the state before. -/
structure Stores (s t : State) (n : Width) (m : MemMode) (v : Word) : Prop where
  low : s.IsRam (s.operandAddr m 0) → t.mem.read (s.operandAddr m 0) = loByte v
  high : n = .w16 → s.IsRam (s.operandAddr m 1) → t.mem.read (s.operandAddr m 1) = hiByte v
  frame : ∀ a, a ≠ s.operandAddr m 0 → (n = .w16 → a ≠ s.operandAddr m 1) → t.mem.read a = s.mem.read a
  kept : ∀ a, ¬ s.IsRam a → t.mem.read a = s.mem.read a

/-- S after `k` plain pushes (R260). -/
def State.sDown (s : State) : Nat → Word
  | 0 => s.sp
  | k + 1 => spDown s.e (s.sDown k)

/-- S after `k` plain pulls (R261). -/
def State.sUp (s : State) : Nat → Word
  | 0 => s.sp
  | k + 1 => spUp s.e (s.sUp k)

/-- The byte of the stack at an offset in bank 0. -/
def State.stackByte (s : State) (off : Word) : Byte := s.peek .read (stackAddr off)

/-- The byte of the stack at an offset in bank 0 is RAM. -/
def State.StackRam (s : State) (off : Word) : Prop := s.IsRam (phys s.cfg.variant (stackAddr off))

/-- From one state to another these bytes have been pushed, the first at `place 0`; every other byte of memory
is unchanged, and every byte the platform owns. -/
structure Pushes (s t : State) (place : Nat → Word) (bytes : List Byte) : Prop where
  written : ∀ k b, bytes[k]? = some b → s.StackRam (place k) → t.stackByte (place k) = b
  frame : ∀ a, (∀ k, k < bytes.length → a ≠ phys s.cfg.variant (stackAddr (place k))) →
    t.mem.read a = s.mem.read a
  kept : ∀ a, ¬ s.IsRam a → t.mem.read a = s.mem.read a

/-- SH as an instruction with 16-bit stack arithmetic leaves it (R263): 01 in Emulation mode. -/
def fixedSp (e : Bool) (sp : Word) : Word := if e then mkWord 0x01 (loByte sp) else sp

/-! ### The entry to a handler -/

/-- The bytes an interrupt pushes, in order: PBR in Native mode, the return address, the status byte with
the Break flag of the source in Emulation mode (R410 to R412). -/
def State.frameBytes (s : State) (src : Source) (ret : Word) : List Byte :=
  if s.e then
    [hiByte ret, loByte ret,
     s.p.extractLsb' 6 2 ++ 1#1 ++ BitVec.ofBool (isSoftware src) ++ s.p.extractLsb' 0 4]
  else [s.pbr, hiByte ret, loByte ret, s.p]

/-- From one state to another the interrupt sequence has run (R410 to R414). -/
structure Entered (s t : State) (src : Source) (ret : Word) : Prop where
  pushed : Pushes s t s.sDown (s.frameBytes src ret)
  sp : t.sp = s.sDown (s.frameBytes src ret).length
  i : getFlag t.p .i = true
  d : getFlag t.p .d = false
  flags : KeepsFlags s.p t.p [.i, .d]
  pbr : t.pbr = 0x00
  dbr : t.dbr = if s.e then 0x00 else s.dbr
  pc : t.pc = mkWord (t.peek .vector (mkAddr 0x00 (vectorOf src s.e + 1)))
    (t.peek .vector (mkAddr 0x00 (vectorOf src s.e)))
  rest : t = { s with
    sp := t.sp, p := t.p, pbr := t.pbr, dbr := t.dbr, pc := t.pc, mem := t.mem, bus := t.bus }

/-! ### Boundaries -/

/-- Nothing aborts what the machine does in this step: no ABORT- pulse comes during it, and external
hardware answers no address with ABORT-. -/
def State.NoAbort (s : State) : Prop :=
  s.present.abortRanges = [] ∧ s.abortPin ≠ .early ∧ s.abortPin ≠ .late

/-- After the inputs of a boundary the machine is neither in reset nor stopped, and if it waits NMI- or
IRQ- wakes it (R403 steps 1 to 3). -/
def State.Running (u : State) : Prop :=
  u.resLow = false ∧ u.inReset = false ∧ u.stopped = false ∧ (u.waiting = true → u.wakes = true)

/-- No ABORT- is pending: there is none on the W65C802. -/
def State.NoAbortPending (u : State) : Prop := u.abortPending = true → u.cfg.variant = .w65c802

/-- The registers of R420 step 3 are the same in two states. -/
def SameRegisters (s t : State) : Prop :=
  t.c = s.c ∧ t.x = s.x ∧ t.y = s.y ∧ t.sp = s.sp ∧ t.d = s.d ∧ t.dbr = s.dbr ∧ t.pbr = s.pbr ∧
  t.pc = s.pc ∧ t.p = s.p ∧ t.e = s.e

/-- From a boundary with the inputs taken in, this hardware interrupt sequence begins in the state `v`: the
wait ended, the latch of its source cleared, PC at the return address (R402, R403 steps 4 to 6, R411). -/
def State.Starts (u : State) (src : Source) (v : State) : Prop :=
  src = .abort ∧ u.abortPending = true ∧ u.cfg.variant = .w65c816 ∧
    v = { u with waiting := false, abortPending := false, pc := if u.waiting then u.pc - 1 else u.pc } ∨
  src = .nmi ∧ u.NoAbortPending ∧ u.nmiPending = true ∧ v = { u with waiting := false, nmiPending := false } ∨
  src = .irq ∧ u.NoAbortPending ∧ u.nmiPending = false ∧ u.irqLow = true ∧ getFlag u.p .i = false ∧
    v = { u with waiting := false }

/-- ABORT- comes in time in the step from `s`, where without it the machine would come to `r`: by a pulse, or
because the first access that external hardware rejects is not a late one (R421). -/
def State.AbortsInTime (s r : State) (cls : AbortClass) : Prop :=
  s.abortPin = .early ∨ ∃ a, r.bus.find? s.present.rejects = some a ∧ lateAccess cls a.kind = false

/-- ABORT- comes, and not in time: by a pulse after the last abortable cycle, or by a late access (R421). -/
def State.AbortsLate (s r : State) (cls : AbortClass) : Prop :=
  ¬ s.AbortsInTime r cls ∧ (s.abortPin = .late ∨ ∃ a, r.bus.find? s.present.rejects = some a)

/-- ABORT- has led to `t` where the machine would have come to `r`: the registers are those of `kept`, the
abort is pending, all accesses have been made, and every byte that no blocked write went to is as in `r`
(R420). -/
structure Aborted (kept r t : State) : Prop where
  registers : SameRegisters kept t
  latch : t.abortPending = true
  bus : t.bus = r.bus
  written : ∀ b, (∀ a ∈ r.bus, isWrite a.kind = true → a.addr = b → r.blocks a = false) →
    t.mem.read b = r.mem.read b

/-- `n` executions of one instruction, one after the other. -/
def execTimes (i : Instr) : Nat → State → Host.Outcome State Fault Refusal
  | 0, s => .next s
  | n + 1, s =>
    match exec i s with
    | .next t => execTimes i n t
    | .fault f => .fault f
    | .refused r => .refused r

end Sys2Proof.Machine
end

