-- ==== Sys2Proof/Certificates/Slice0/Obligations.lean ====
section
/-!
DEFINITION. The statements for the provers. Each docstring names the rules it formalises. "t = the state
before with …" says that every field not named is unchanged; where `mem` is not named, all of memory is.
-/

open Sys2Proof Sys2Proof.Machine

/-! ### Encoding and decoding -/

/-- R91 to R94: decoding the bytes of an instruction gives it back, whatever follows them. -/
def Obligations.DecodeEncode : Prop :=
  ∀ (m x : Bool) (i : Instr) (rest : List Byte),
    i.wellFormed m x = true → decode m x (encode i ++ rest) = .ok (i, rest)

/-- R90, R94: what the decoder reads is an instruction the width flags admit, and its bytes are exactly
those the encoder writes: each byte sequence has one meaning. -/
def Obligations.EncodeDecode : Prop :=
  ∀ (m x : Bool) (bytes rest : List Byte) (i : Instr),
    decode m x bytes = .ok (i, rest) → i.wellFormed m x = true ∧ bytes = encode i ++ rest

/-- R90, R97: four bytes always decode, whatever they and the width flags are; there is no illegal
opcode. -/
def Obligations.EveryOpcodeAssigned : Prop :=
  ∀ (m x : Bool) (b0 b1 b2 b3 : Byte), ∃ i rest, decode m x [b0, b1, b2, b3] = .ok (i, rest)

/-- R93: the twelve immediate opcodes have two bytes when their flag is 1 and three when it is 0; the
length of every other instruction depends on its opcode alone, and lies between 1 and 4. -/
def Obligations.LengthByFlags : Prop :=
  ∀ (m x : Bool) (i : Instr), i.wellFormed m x = true →
    (opcodeOf i ∈ [0x09, 0x29, 0x49, 0x69, 0x89, 0xA9, 0xC9, 0xE9] → instrLength i = if m then 2 else 3) ∧
    (opcodeOf i ∈ [0xA0, 0xA2, 0xC0, 0xE0] → instrLength i = if x then 2 else 3) ∧
    (opcodeOf i ∉ [0x09, 0x29, 0x49, 0x69, 0x89, 0xA9, 0xC9, 0xE9, 0xA0, 0xA2, 0xC0, 0xE0] →
      1 ≤ instrLength i ∧ instrLength i ≤ 4 ∧ ∀ j, opcodeOf j = opcodeOf i → instrLength j = instrLength i)

/-- R94, R91: words written out from the opcode matrix decode to the instructions they stand for. -/
def Obligations.WrittenWords : Prop :=
  decode true true [0xA9, 0x80, 0x00, 0x00] = .ok (.ldaImm (.byte 0x80), [0x00, 0x00]) ∧
  decode false true [0xA9, 0x34, 0x12, 0x00] = .ok (.ldaImm (.word 0x1234), [0x00]) ∧
  decode true false [0xA2, 0x34, 0x12, 0x00] = .ok (.ldxImm (.word 0x1234), [0x00]) ∧
  decode true true [0x8D, 0x00, 0x20, 0x00] = .ok (.staAbs 0x2000, [0x00]) ∧
  decode true true [0x22, 0x56, 0x34, 0x12] = .ok (.jslLong 0x123456, []) ∧
  decode true true [0x54, 0x02, 0x01, 0x00] = .ok (.mvn 0x02 0x01, [0x00]) ∧
  decode true true [0x82, 0xFD, 0xFF, 0x00] = .ok (.brl 0xFFFD, [0x00]) ∧
  decode true true [0xF7, 0x10, 0x00, 0x00] = .ok (.sbcDirLongY 0x10, [0x00, 0x00]) ∧
  decode true true [0xFB, 0x00, 0x00, 0x00] = .ok (.xce, [0x00, 0x00, 0x00]) ∧
  decode true true [0x42, 0x00, 0x00, 0x00] = .ok (.wdm 0x00, [0x00, 0x00])

/-! ### The step -/

/-- R403 step 7: where no reset, no stop, no unended wait and no interrupt stands in the way, the step is `exec`
of the instruction that the bytes at PBR:PC decode to, at the state after the inputs are presented, with the
wait ended and the fetches put on the bus record. The test of P.I as the instruction before left it is the
spec's choice D3 (notes/assumptions/11). That inputs arrive at boundaries is its choice D2
(notes/assumptions/10). -/
def Obligations.StepRunsDecoded : Prop :=
  ∀ (s : State) (i : Instr) (rest : List Byte),
    let u : State := { s.present with waiting := false }
    s.present.Running → s.NoAbort → u.NoAbortPending → u.nmiPending = false →
    (u.irqLow = true → getFlag u.p .i = true) →
    decode (getFlag u.p .m) (getFlag u.p .x) u.codeBytes = .ok (i, rest) →
    step s = exec i (u.noteFetch i) ∧ u.noteFetch i = { u with bus := (u.noteFetch i).bus }

/-- R12, R400: every state has a next one: the machine has no fault. -/
def Obligations.StepAlwaysNext : Prop := ∀ s : State, Safe s

/-- R34, R40: what reset leaves in the registers, for all values of what it does not initialise. -/
def Obligations.ResetValues : Prop :=
  ∀ (cfg : Config) (mem : Memory) (u : ResetUnspecified),
    let s := State.resetWith cfg mem u
    s.c = u.c ∧ hiByte s.x = 0x00 ∧ loByte s.x = u.xl ∧ hiByte s.y = 0x00 ∧ loByte s.y = u.yl ∧
    hiByte s.sp = 0x01 ∧ loByte s.sp = u.sl ∧ s.d = 0x0000 ∧ s.dbr = 0x00 ∧ s.pbr = 0x00 ∧
    s.pc = mkWord (mem.read 0xFFFD) (mem.read 0xFFFC) ∧
    getFlag s.p .n = u.n ∧ getFlag s.p .v = u.v ∧ getFlag s.p .m = true ∧ getFlag s.p .x = true ∧
    getFlag s.p .d = false ∧ getFlag s.p .i = true ∧ getFlag s.p .z = u.z ∧ getFlag s.p .c = u.carry ∧
    s.e = true ∧ s.waiting = false ∧ s.stopped = false

/-- R21, R22, R31, R61: the invariant holds after reset. That memory lists nothing is the model's choice
(notes/assumptions/3). -/
def Obligations.ResetInv : Prop := State.reset.Inv

/-- R21, R22, R31, R61: every step keeps the invariant: in Emulation mode M = X = 1 and SH = 01, with X = 1
the index high bytes are 00, memory is canonical and inside the address space. -/
def Obligations.StepKeepsInv : Prop := ∀ s t : State, s.Inv → step s = .next t → t.Inv

/-- R37, R61, R72, R440: every bus access of a step is at a physical address of the part, and on the W65C816 VDA
or VPA marks it valid. That internal cycles, in which neither is high, are no accesses is the spec's choice D9
(notes/assumptions/20); that VDA and VPA are functions of a recorded access, and which accesses
count as data, is the model's (notes/assumptions/39). -/
def Obligations.AccessesValid : Prop :=
  ∀ s t : State, step s = .next t → ∀ a ∈ t.bus,
    a.addr < physSize s.cfg.variant ∧ (s.cfg.variant = .w65c816 → (a.vda || a.vpa) = true)

/-! ### Effective addresses and operands -/

/-- R122 to R124: the direct modes. In Emulation mode with DL = 00 the sum wraps in the page of DH,
otherwise in bank 0; the bank is 0. -/
def Obligations.DirectAddresses : Prop :=
  ∀ (s : State) (off : Byte) (m : MemMode) (idx : Word),
    (m = .dir off ∧ idx = 0) ∨ (m = .dirX off ∧ idx = s.x) ∨ (m = .dirY off ∧ idx = s.y) →
    (s.ea m).toNat =
      if s.e = true ∧ s.d.toNat % 256 = 0 then s.d.toNat / 256 * 256 + (off.toNat + idx.toNat) % 256
      else (s.d.toNat + off.toNat + idx.toNat) % 65536

/-- R125 (a), R126, R129, R134, R140: the absolute modes and the stack-relative one. An index is added to the
whole 24-bit base and carries into the bank; a stack offset is added in 16 bits, in bank 0, in both modes. The
16-bit sum of d,s in both modes is the spec's choice D7 (notes/assumptions/18), the wrap of a 24-bit sum above
FFFFFF its inference (R64; notes/assumptions/28). -/
def Obligations.AbsoluteAddresses : Prop :=
  ∀ (s : State) (a : Word) (al : Addr) (off : Byte),
    (s.ea (.abs a)).toNat = s.dbr.toNat * 65536 + a.toNat ∧
    (s.ea (.absX a)).toNat = (s.dbr.toNat * 65536 + a.toNat + s.x.toNat) % 16777216 ∧
    (s.ea (.absY a)).toNat = (s.dbr.toNat * 65536 + a.toNat + s.y.toNat) % 16777216 ∧
    s.ea (.long al) = al ∧
    (s.ea (.longX al)).toNat = (al.toNat + s.x.toNat) % 16777216 ∧
    (s.ea (.stk off)).toNat = (s.sp.toNat + off.toNat) % 65536

/-- R130 to R133, R141: the modes with a pointer. A 16-bit pointer in the direct page is read inside the page in
Emulation mode with DL = 00, otherwise inside bank 0; a 24-bit pointer and one on the stack always inside bank
0. The 16-bit sum of (d,s),y in both modes is the spec's choice D7 (notes/assumptions/18), the wrap of a 24-bit
sum above FFFFFF its inference (R64; notes/assumptions/28). -/
def Obligations.IndirectAddresses : Prop :=
  ∀ (s : State) (off : Byte),
    let at0 := fun (a : Word) => (s.peek .pointer (mkAddr 0x00 a)).toNat
    let next := fun (a : Word) =>
      if s.e = true ∧ s.d.toNat % 256 = 0 then mkWord (hiByte a) (loByte a + 1) else a + 1
    let ptr16 := fun (a : Word) => at0 a + 256 * at0 (next a)
    let ptr24 := fun (a : Word) => at0 a + 256 * at0 (a + 1) + 65536 * at0 (a + 2)
    let bank := s.dbr.toNat * 65536
    let pa := offOf (s.ea (.dir off))
    let px := offOf (s.ea (.dirX off))
    let ps := offOf (s.ea (.stk off))
    (s.ea (.dirInd off)).toNat = bank + ptr16 pa ∧
    (s.ea (.dirXInd off)).toNat = bank + ptr16 px ∧
    (s.ea (.dirIndY off)).toNat = (bank + ptr16 pa + s.y.toNat) % 16777216 ∧
    (s.ea (.dirLong off)).toNat = ptr24 pa ∧
    (s.ea (.dirLongY off)).toNat = (ptr24 pa + s.y.toNat) % 16777216 ∧
    (s.ea (.stkIndY off)).toNat = (bank + at0 ps + 256 * at0 (ps + 1) + s.y.toNat) % 16777216

/-- R63, R64, R65, R121, R143, R160: the value of an operand. In memory the second byte lies at the next
address, inside bank 0 for the direct and stack-relative modes, with a carry into the bank for all others; on
the W65C802 the bank of each address is dropped. A byte of RAM reads as memory holds it, an address the platform
owns as the platform answers to that access or else as it has set it (notes/assumptions/4). An immediate is the
instruction's own byte or word. That the byte after FF:FFFF is 00:0000 is the spec's inference (R64;
notes/assumptions/28), the carry into the bank its choice among two readings (notes/assumptions/32). -/
def Obligations.OperandBytes : Prop :=
  ∀ (s : State) (m : MemMode) (b : Byte) (v : Word),
    let a := (s.ea m).toNat
    let bank0 : Prop := match m with
      | .dir _ | .dirX _ | .dirY _ | .stk _ => True
      | _ => False
    let p := fun (k : Nat) => match s.cfg.variant with
      | .w65c816 => k
      | .w65c802 => k % 65536
    let answer := fun (k : Nat) => s.answers.find? fun r => r.kind == .read && r.addr == k
    ∃ a1 : Nat, (bank0 → a1 = a / 65536 * 65536 + (a + 1) % 65536) ∧
      (¬ bank0 → a1 = (a + 1) % 16777216) ∧
      s.operandAddr m 0 = p a ∧ s.operandAddr m 1 = p a1 ∧
      (s.operandValue .w8 (.mem m)).toNat = (s.busRead .read (p a)).toNat ∧
      (s.operandValue .w16 (.mem m)).toNat =
        (s.busRead .read (p a)).toNat + 256 * (s.busRead .read (p a1)).toNat ∧
      (∀ k, s.IsRam k ∨ answer k = none → s.busRead .read k = s.mem.read k) ∧
      (∀ k r, ¬ s.IsRam k → answer k = some r → s.busRead .read k = r.data) ∧
      (s.operandValue .w8 (.imm (.byte b))).toNat = b.toNat ∧ s.operandValue .w16 (.imm (.word v)) = v

/-! ### Loads and stores -/

/-- R161: LDA in its 15 forms. -/
def Obligations.LoadAccumulator : Prop :=
  ∀ (i : Instr) (o : Operand) (s : State), readForm i = some (.lda, o) →
    ∃ t, exec i s = .next t ∧
      AccWritten s.mw s.c t.c (s.operandValue s.mw o) ∧
      SetsNZ s.p t.p s.mw (s.operandValue s.mw o) ∧
      t = { s with c := t.c, p := t.p, pc := s.pc + BitVec.ofNat 16 (instrLength i), bus := t.bus }

/-- R162, R163: LDX and LDY in their five forms each. -/
def Obligations.LoadIndex : Prop :=
  ∀ (i : Instr) (o : Operand) (s : State),
    (readForm i = some (.ldx, o) →
      ∃ t, exec i s = .next t ∧
        IndexWritten s.xw t.x (s.operandValue s.xw o) ∧
        SetsNZ s.p t.p s.xw (s.operandValue s.xw o) ∧
        t = { s with x := t.x, p := t.p, pc := s.pc + BitVec.ofNat 16 (instrLength i), bus := t.bus }) ∧
    (readForm i = some (.ldy, o) →
      ∃ t, exec i s = .next t ∧
        IndexWritten s.xw t.y (s.operandValue s.xw o) ∧
        SetsNZ s.p t.p s.xw (s.operandValue s.xw o) ∧
        t = { s with y := t.y, p := t.p, pc := s.pc + BitVec.ofNat 16 (instrLength i), bus := t.bus })

/-- R164 to R167: STA, STX, STY and STZ. One byte at 8 bits, two at 16, low byte first on the bus; every other
byte of memory and every register but PC is unchanged, and no byte that the platform owns (notes/assumptions/4).
That the width of STZ is that of P.M is the spec's inference (R167; notes/assumptions/40); the extra read of the
W65C802 among the accesses before the store is its parameter SPURIOUS_READS (D12; notes/assumptions/6). -/
def Obligations.StoreInstructions : Prop :=
  ∀ (i : Instr) (op : StoreOp) (m : MemMode) (s : State), storeForm i = some (op, m) →
    let w := if op.byX then s.xw else s.mw
    let v := match op with
      | .sta => s.c
      | .stx => s.x
      | .sty => s.y
      | .stz => 0
    ∃ t, exec i s = .next t ∧ Stores s t w m v ∧
      t.bus = s.bus ++ s.formingAccesses m ++ ⟨.write, s.operandAddr m 0, loByte v, false⟩ ::
        (if w = .w8 then [] else [⟨.write, s.operandAddr m 1, hiByte v, false⟩]) ∧
      t = { s with pc := s.pc + BitVec.ofNat 16 (instrLength i), mem := t.mem, bus := t.bus }

/-! ### Arithmetic and logic -/

/-- R181, R183: ADC in its 15 forms with P.D = 0. Carry says that the sum does not fit the width, V that the
signed sum does not. The formula of V is one the spec supplies (U2; notes/assumptions/9). -/
def Obligations.AddBinary : Prop :=
  ∀ (i : Instr) (o : Operand) (s : State), readForm i = some (.adc, o) → getFlag s.p .d = false →
    let w := s.mw
    let v := s.operandValue w o
    let c := (getFlag s.p .c).toNat
    let sum := s.acc.toNat + v.toNat + c
    ∃ t r, exec i s = .next t ∧
      r.toNat = sum % 2 ^ widthBits w ∧
      AccWritten w s.c t.c r ∧
      getFlag t.p .n = r.getLsbD (widthBits w - 1) ∧
      getFlag t.p .z = decide (r.toNat = 0) ∧
      getFlag t.p .c = decide (2 ^ widthBits w ≤ sum) ∧
      (getFlag t.p .v = true ↔ ¬ fitsSigned w (signedValue w s.acc + signedValue w v + c)) ∧
      KeepsFlags s.p t.p [.n, .v, .z, .c] ∧
      t = { s with c := t.c, p := t.p, pc := s.pc + BitVec.ofNat 16 (instrLength i), bus := t.bus }

/-- R182, R183: SBC in its 15 forms with P.D = 0. Carry says that no borrow occurred, V that the signed
difference does not fit the width. The borrow sense and the formula of V are ones the spec supplies (U2, U3;
notes/assumptions/9). -/
def Obligations.SubtractBinary : Prop :=
  ∀ (i : Instr) (o : Operand) (s : State), readForm i = some (.sbc, o) → getFlag s.p .d = false →
    let w := s.mw
    let v := s.operandValue w o
    let borrow := (!getFlag s.p .c).toNat
    ∃ t r, exec i s = .next t ∧
      r.toNat = (s.acc.toNat + 2 ^ widthBits w - (v.toNat + borrow)) % 2 ^ widthBits w ∧
      AccWritten w s.c t.c r ∧
      getFlag t.p .n = r.getLsbD (widthBits w - 1) ∧
      getFlag t.p .z = decide (r.toNat = 0) ∧
      getFlag t.p .c = decide (v.toNat + borrow ≤ s.acc.toNat) ∧
      (getFlag t.p .v = true ↔ ¬ fitsSigned w (signedValue w s.acc - signedValue w v - borrow)) ∧
      KeepsFlags s.p t.p [.n, .v, .z, .c] ∧
      t = { s with c := t.c, p := t.p, pc := s.pc + BitVec.ofNat 16 (instrLength i), bus := t.bus }

/-- R181, R183: ADC with P.D = 1 on packed BCD operands: the digits of the sum modulo 10^k, and a carry when
it is at least 10^k. N and Z are those of the result. It holds under both choices of DECIMAL_ALU and says
nothing of V or of other operands (U1). (notes/assumptions/8) -/
def Obligations.AddDecimal : Prop :=
  ∀ (i : Instr) (o : Operand) (s : State), readForm i = some (.adc, o) → getFlag s.p .d = true →
    let w := s.mw
    let k := widthDigits w
    let v := s.operandValue w o
    let sum := bcdValue k s.acc.toNat + bcdValue k v.toNat + (getFlag s.p .c).toNat
    validBcd k s.acc.toNat = true → validBcd k v.toNat = true →
    ∃ t r, exec i s = .next t ∧
      validBcd k r.toNat = true ∧ r.toNat < 2 ^ widthBits w ∧ bcdValue k r.toNat = sum % 10 ^ k ∧
      AccWritten w s.c t.c r ∧
      getFlag t.p .n = r.getLsbD (widthBits w - 1) ∧
      getFlag t.p .z = decide (r.toNat = 0) ∧
      getFlag t.p .c = decide (10 ^ k ≤ sum) ∧
      KeepsFlags s.p t.p [.n, .v, .z, .c] ∧
      t = { s with c := t.c, p := t.p, pc := s.pc + BitVec.ofNat 16 (instrLength i), bus := t.bus }

/-- R182, R183: SBC with P.D = 1 on packed BCD operands: the digits of the difference modulo 10^k, and a carry
when there is no borrow. The algorithm is one the spec supplies (U1, U3; notes/assumptions/8,
notes/assumptions/9). -/
def Obligations.SubtractDecimal : Prop :=
  ∀ (i : Instr) (o : Operand) (s : State), readForm i = some (.sbc, o) → getFlag s.p .d = true →
    let w := s.mw
    let k := widthDigits w
    let v := s.operandValue w o
    let taken := bcdValue k v.toNat + (!getFlag s.p .c).toNat
    validBcd k s.acc.toNat = true → validBcd k v.toNat = true →
    ∃ t r, exec i s = .next t ∧
      validBcd k r.toNat = true ∧ r.toNat < 2 ^ widthBits w ∧
      bcdValue k r.toNat = (bcdValue k s.acc.toNat + 10 ^ k - taken) % 10 ^ k ∧
      AccWritten w s.c t.c r ∧
      getFlag t.p .n = r.getLsbD (widthBits w - 1) ∧
      getFlag t.p .z = decide (r.toNat = 0) ∧
      getFlag t.p .c = decide (taken ≤ bcdValue k s.acc.toNat) ∧
      KeepsFlags s.p t.p [.n, .v, .z, .c] ∧
      t = { s with c := t.c, p := t.p, pc := s.pc + BitVec.ofNat 16 (instrLength i), bus := t.bus }

/-- R184 to R186: AND, EOR and ORA in their 15 forms each, bit by bit. -/
def Obligations.Logic : Prop :=
  ∀ (i : Instr) (op : ReadOp) (o : Operand) (s : State), readForm i = some (op, o) →
    op = .and ∨ op = .eor ∨ op = .ora →
    let v := s.operandValue s.mw o
    ∃ t r, exec i s = .next t ∧
      (∀ k, k < widthBits s.mw → r.getLsbD k =
        if op = .and then s.c.getLsbD k && v.getLsbD k
        else if op = .eor then s.c.getLsbD k != v.getLsbD k
        else s.c.getLsbD k || v.getLsbD k) ∧
      AccWritten s.mw s.c t.c r ∧ SetsNZ s.p t.p s.mw r ∧
      t = { s with c := t.c, p := t.p, pc := s.pc + BitVec.ofNat 16 (instrLength i), bus := t.bus }

/-- R187 to R189: CMP, CPX and CPY. N and Z are those of the difference modulo 2^w, C says that the register is
at least the operand, unsigned; no register is written. The sense of C, and that P.D does not count, are
supplied by the spec (U3, R187; notes/assumptions/9). -/
def Obligations.Compare : Prop :=
  ∀ (i : Instr) (op : ReadOp) (o : Operand) (s : State), readForm i = some (op, o) →
    op = .cmp ∨ op = .cpx ∨ op = .cpy →
    let w := if op.byX then s.xw else s.mw
    let reg := (if op = .cmp then s.c else if op = .cpx then s.x else s.y).toNat % 2 ^ widthBits w
    let v := (s.operandValue w o).toNat
    ∃ t, exec i s = .next t ∧
      SetsNZC s.p t.p w (BitVec.ofNat 16 ((reg + 2 ^ widthBits w - v) % 2 ^ widthBits w)) (decide (v ≤ reg)) ∧
      t = { s with p := t.p, pc := s.pc + BitVec.ofNat 16 (instrLength i), bus := t.bus }

/-- R190: BIT. Z says that no bit of the operand is set in the accumulator; in the memory forms N and V are
the two top bits of the operand, in the immediate form they keep their values. -/
def Obligations.BitTest : Prop :=
  ∀ (i : Instr) (o : Operand) (s : State), readForm i = some (.bit, o) →
    let w := s.mw
    let v := s.operandValue w o
    ∃ t, exec i s = .next t ∧
      (getFlag t.p .z = true ↔ ∀ k, k < widthBits w → (s.c.getLsbD k && v.getLsbD k) = false) ∧
      (∀ m, o = .mem m →
        getFlag t.p .n = v.getLsbD (widthBits w - 1) ∧ getFlag t.p .v = v.getLsbD (widthBits w - 2)) ∧
      (∀ q, o = .imm q → KeepsFlags s.p t.p [.z]) ∧
      KeepsFlags s.p t.p [.n, .v, .z] ∧
      t = { s with p := t.p, pc := s.pc + BitVec.ofNat 16 (instrLength i), bus := t.bus }

/-! ### Read-modify-write -/

/-- R191, R192, R180: INC and DEC on memory and on the accumulator. A byte the platform owns keeps its value:
notes/assumptions/4. -/
def Obligations.IncrementDecrement : Prop :=
  ∀ (i : Instr) (op : ModifyOp) (s : State), op = .inc ∨ op = .dec →
    let w := s.mw
    let result := fun (old : Nat) =>
      BitVec.ofNat 16 ((if op = .inc then old + 1 else old + 2 ^ widthBits w - 1) % 2 ^ widthBits w)
    (∀ m, modifyForm i = some (op, m) →
      ∃ t, exec i s = .next t ∧
        Stores s t w m (result (s.operandValue w (.mem m)).toNat) ∧
        SetsNZ s.p t.p w (result (s.operandValue w (.mem m)).toNat) ∧
        t = { s with p := t.p, pc := s.pc + BitVec.ofNat 16 (instrLength i), mem := t.mem, bus := t.bus }) ∧
    (accForm i = some op →
      ∃ t, exec i s = .next t ∧
        AccWritten w s.c t.c (result s.acc.toNat) ∧ SetsNZ s.p t.p w (result s.acc.toNat) ∧
        t = { s with c := t.c, p := t.p, pc := s.pc + 1 })

/-- R197 to R200, R180: ASL, LSR, ROL and ROR on memory and on the accumulator. The bit shifted out goes to C; 0
or, in the rotates, the old C is shifted in. That ROL and ROR go through C is supplied by the spec (U16;
notes/assumptions/9). A byte the platform owns keeps its value: notes/assumptions/4. -/
def Obligations.ShiftsAndRotates : Prop :=
  ∀ (i : Instr) (op : ModifyOp) (s : State), op = .asl ∨ op = .lsr ∨ op = .rol ∨ op = .ror →
    let w := s.mw
    let n := widthBits w
    let c := (getFlag s.p .c).toNat
    let result := fun (old : Nat) => BitVec.ofNat 16
      (if op = .asl then 2 * old % 2 ^ n
       else if op = .lsr then old / 2
       else if op = .rol then 2 * old % 2 ^ n + c
       else old / 2 + c * 2 ^ (n - 1))
    let out := fun (old : Nat) => if op = .asl ∨ op = .rol then old.testBit (n - 1) else old.testBit 0
    (∀ m, modifyForm i = some (op, m) →
      let old := (s.operandValue w (.mem m)).toNat
      ∃ t, exec i s = .next t ∧
        Stores s t w m (result old) ∧ SetsNZC s.p t.p w (result old) (out old) ∧
        t = { s with p := t.p, pc := s.pc + BitVec.ofNat 16 (instrLength i), mem := t.mem, bus := t.bus }) ∧
    (accForm i = some op →
      let old := s.acc.toNat
      ∃ t, exec i s = .next t ∧
        AccWritten w s.c t.c (result old) ∧ SetsNZC s.p t.p w (result old) (out old) ∧
        t = { s with c := t.c, p := t.p, pc := s.pc + 1 })

/-- R201, R202, R180: TSB and TRB. The accumulator's bits are set or cleared in memory; Z is from the AND with
the byte or word before; no other flag changes. The rule of Z is supplied by the spec (U4; notes/assumptions/9).
A byte the platform owns keeps its value: notes/assumptions/4. -/
def Obligations.TestAndSet : Prop :=
  ∀ (i : Instr) (op : ModifyOp) (m : MemMode) (s : State), modifyForm i = some (op, m) →
    op = .tsb ∨ op = .trb →
    let w := s.mw
    let old := s.operandValue w (.mem m)
    ∃ t r, exec i s = .next t ∧
      (∀ k, k < widthBits w → r.getLsbD k =
        if op = .tsb then old.getLsbD k || s.c.getLsbD k else old.getLsbD k && !s.c.getLsbD k) ∧
      Stores s t w m r ∧
      (getFlag t.p .z = true ↔ ∀ k, k < widthBits w → (s.c.getLsbD k && old.getLsbD k) = false) ∧
      KeepsFlags s.p t.p [.z] ∧
      t = { s with p := t.p, pc := s.pc + BitVec.ofNat 16 (instrLength i), mem := t.mem, bus := t.bus }

/-- R68 (c), R69, R180: the operand accesses of a read-modify-write of memory: read low and at 16 bits high;
with E = 1 the unmodified byte is written; then high and low of the result. All of them are under the memory
lock. The accesses before them are at most the extra read of the W65C802 (notes/assumptions/6). The value of the
modify-cycle write is supplied by the spec (U7; notes/assumptions/9). A byte the platform owns keeps its value:
notes/assumptions/4. -/
def Obligations.ModifyBusOrder : Prop :=
  ∀ (i : Instr) (op : ModifyOp) (m : MemMode) (s t : State), modifyForm i = some (op, m) →
    exec i s = .next t →
    let a0 := s.operandAddr m 0
    let a1 := s.operandAddr m 1
    let r := (modifyOp s.acc op s.mw (s.operandValue s.mw (.mem m)) s.p).1
    let rd := fun a => (⟨.read, a, s.busRead .read a, true⟩ : BusAccess)
    Stores s t s.mw m r ∧
    t.bus = s.bus ++ s.formingAccesses m ++
      (if s.mw = .w8 then [rd a0] else [rd a0, rd a1]) ++
      (if s.e then [⟨.modify, a0, s.busRead .read a0, true⟩] else []) ++
      (if s.mw = .w8 then [⟨.write, a0, loByte r, true⟩]
       else [⟨.write, a1, hiByte r, true⟩, ⟨.write, a0, loByte r, true⟩])

/-! ### Index registers and transfers -/

/-- R193 to R196: INX, INY, DEX and DEY at the index width. -/
def Obligations.StepIndex : Prop :=
  ∀ s : State,
    let n := 2 ^ widthBits s.xw
    let up := fun (v : Word) => BitVec.ofNat 16 ((v.toNat % n + 1) % n)
    let down := fun (v : Word) => BitVec.ofNat 16 ((v.toNat % n + n - 1) % n)
    (∃ t, exec .inx s = .next t ∧ t.x = up s.x ∧ SetsNZ s.p t.p s.xw t.x ∧
      t = { s with x := t.x, p := t.p, pc := s.pc + 1 }) ∧
    (∃ t, exec .iny s = .next t ∧ t.y = up s.y ∧ SetsNZ s.p t.p s.xw t.y ∧
      t = { s with y := t.y, p := t.p, pc := s.pc + 1 }) ∧
    (∃ t, exec .dex s = .next t ∧ t.x = down s.x ∧ SetsNZ s.p t.p s.xw t.x ∧
      t = { s with x := t.x, p := t.p, pc := s.pc + 1 }) ∧
    (∃ t, exec .dey s = .next t ∧ t.y = down s.y ∧ SetsNZ s.p t.p s.xw t.y ∧
      t = { s with y := t.y, p := t.p, pc := s.pc + 1 })

/-- R230 to R232, R235 to R237: the transfers to an index register, with their encodings. The source offers
16 bits, the index width says how many are stored. -/
def Obligations.TransfersToIndex : Prop :=
  ∀ s : State,
    let toX := fun (i : Instr) (opcode : Byte) (v : Word) =>
      encode i = [opcode] ∧ ∃ t, exec i s = .next t ∧ IndexWritten s.xw t.x v ∧ SetsNZ s.p t.p s.xw v ∧
        t = { s with x := t.x, p := t.p, pc := s.pc + 1 }
    let toY := fun (i : Instr) (opcode : Byte) (v : Word) =>
      encode i = [opcode] ∧ ∃ t, exec i s = .next t ∧ IndexWritten s.xw t.y v ∧ SetsNZ s.p t.p s.xw v ∧
        t = { s with y := t.y, p := t.p, pc := s.pc + 1 }
    toX .tax 0xAA s.c ∧ toY .tay 0xA8 s.c ∧ toY .txy 0x9B s.x ∧ toX .tyx 0xBB s.y ∧ toX .tsx 0xBA s.sp

/-- R233, R234, R240, R242, R243: the transfers to the accumulator and XBA. TDC and TSC write all of C
whatever P.M is; XBA exchanges its halves and sets N and Z from the new A. What N and Z of XBA reflect is
supplied by the spec (U5; notes/assumptions/9). -/
def Obligations.TransfersToAccumulator : Prop :=
  ∀ s : State,
    let toAcc := fun (i : Instr) (w : Width) (v : Word) =>
      ∃ t, exec i s = .next t ∧ AccWritten w s.c t.c v ∧ SetsNZ s.p t.p w v ∧
        t = { s with c := t.c, p := t.p, pc := s.pc + 1 }
    toAcc .txa s.mw s.x ∧ toAcc .tya s.mw s.y ∧ toAcc .tdc .w16 s.d ∧ toAcc .tsc .w16 s.sp ∧
    ∃ t, exec .xba s = .next t ∧ hiByte t.c = loByte s.c ∧ loByte t.c = hiByte s.c ∧
      SetsNZ s.p t.p .w8 (hiByte s.c).toNat ∧ t = { s with c := t.c, p := t.p, pc := s.pc + 1 }

/-- R238, R239, R241: TXS, TCS and TCD. In Emulation mode a 01 is forced into SH; TXS and TCS change no flag.
TXS with P.X = 1 in Native mode is the spec's inference (R238; notes/assumptions/40). -/
def Obligations.TransfersToStackAndDirect : Prop :=
  ∀ s : State,
    let toS := fun (i : Instr) (v : Word) =>
      exec i s = .next { s with sp := if s.e then 0x01#8 ++ loByte v else v, pc := s.pc + 1 }
    toS .txs s.x ∧ toS .tcs s.c ∧
    ∃ t, exec .tcd s = .next t ∧ t.d = s.c ∧ SetsNZ s.p t.p .w16 s.c ∧
      t = { s with d := t.d, p := t.p, pc := s.pc + 1 }

/-! ### The stack -/

/-- R260 to R262, R265 to R270: PHA, PHX, PHY, PHP, PHB and PHK. The high byte is pushed first; no flag and no
other register changes. A byte the platform owns keeps its value: notes/assumptions/4. -/
def Obligations.PushRegisters : Prop :=
  ∀ s : State,
    let pushes := fun (i : Instr) (bytes : List Byte) =>
      ∃ t, exec i s = .next t ∧ Pushes s t s.sDown bytes ∧
        t = { s with sp := s.sDown bytes.length, pc := s.pc + 1, mem := t.mem, bus := t.bus }
    let wide := fun (w : Width) (v : Word) => if w = .w8 then [loByte v] else [hiByte v, loByte v]
    pushes .pha (wide s.mw s.c) ∧ pushes .phx (wide s.xw s.x) ∧ pushes .phy (wide s.xw s.y) ∧
    pushes .php [s.p] ∧ pushes .phb [s.dbr] ∧ pushes .phk [s.pbr]

/-- R263, R264 (a), R271, R278 to R280: PHD, PEA, PEI and PER push 16 bits with 16-bit stack arithmetic in both
modes; in Emulation mode SH ends as 01. PEI reads its word inside bank 0, without page wrap. The 16-bit
temporary is the spec's choice D7 (notes/assumptions/18), the 01 in SH its inference (R263;
notes/assumptions/40). A byte the platform owns keeps its value: notes/assumptions/4. -/
def Obligations.PushWords : Prop :=
  ∀ (s : State) (v : Word) (off : Byte),
    let pushes := fun (i : Instr) (v : Word) =>
      ∃ t, exec i s = .next t ∧ Pushes s t (fun k => s.sp - BitVec.ofNat 16 k) [hiByte v, loByte v] ∧
        t = { s with sp := fixedSp s.e (s.sp - 2), pc := s.pc + BitVec.ofNat 16 (instrLength i),
                     mem := t.mem, bus := t.bus }
    let a := offOf (s.ea (.dir off))
    pushes .phd s.d ∧ pushes (.pea v) v ∧
    pushes (.pei off) (mkWord (s.stackByte (a + 1)) (s.stackByte a)) ∧ pushes (.per v) (s.pc + 3 + v)

/-- R261 to R264, R272 to R274, R276, R277: PLA, PLX, PLY, PLB and PLD. The low byte is pulled first; PLD uses
16-bit stack arithmetic in both modes. The 16-bit temporary of PLD is the spec's choice D7
(notes/assumptions/18). The 01 in SH after PLD is its inference (R263; notes/assumptions/40). -/
def Obligations.PullRegisters : Prop :=
  ∀ s : State,
    let value := fun (w : Width) =>
      if w = .w8 then mkWord 0x00 (s.stackByte (s.sUp 1))
      else mkWord (s.stackByte (s.sUp 2)) (s.stackByte (s.sUp 1))
    (∃ t, exec .pla s = .next t ∧ AccWritten s.mw s.c t.c (value s.mw) ∧ SetsNZ s.p t.p s.mw (value s.mw) ∧
      t = { s with c := t.c, sp := s.sUp (widthBytes s.mw), p := t.p, pc := s.pc + 1, bus := t.bus }) ∧
    (∃ t, exec .plx s = .next t ∧ IndexWritten s.xw t.x (value s.xw) ∧ SetsNZ s.p t.p s.xw (value s.xw) ∧
      t = { s with x := t.x, sp := s.sUp (widthBytes s.xw), p := t.p, pc := s.pc + 1, bus := t.bus }) ∧
    (∃ t, exec .ply s = .next t ∧ IndexWritten s.xw t.y (value s.xw) ∧ SetsNZ s.p t.p s.xw (value s.xw) ∧
      t = { s with y := t.y, sp := s.sUp (widthBytes s.xw), p := t.p, pc := s.pc + 1, bus := t.bus }) ∧
    (∃ t, exec .plb s = .next t ∧ t.dbr = s.stackByte (s.sUp 1) ∧ SetsNZ s.p t.p .w8 (value .w8) ∧
      t = { s with dbr := t.dbr, sp := s.sUp 1, p := t.p, pc := s.pc + 1, bus := t.bus }) ∧
    (let v := mkWord (s.stackByte (s.sp + 2)) (s.stackByte (s.sp + 1))
     ∃ t, exec .pld s = .next t ∧ SetsNZ s.p t.p .w16 v ∧
      t = { s with d := v, sp := fixedSp s.e (s.sp + 2), p := t.p, pc := s.pc + 1, bus := t.bus })

/-- R275, R337 to R339: PLP, REP and SEP write P from a byte, normalised: in Emulation mode M and X are 1,
and where X is 1 the index high bytes are 00. E and B do not change. -/
def Obligations.StatusWrites : Prop :=
  ∀ (s : State) (v : Byte),
    let writes := fun (i : Instr) (b : Byte) (sp : Word) =>
      let p := if s.e then b ||| 0b00110000 else b
      let narrow := p.getLsbD 4
      ∃ t, exec i s = .next t ∧
        t = { s with
          p := p
          x := if narrow then mkWord 0x00 (loByte s.x) else s.x
          y := if narrow then mkWord 0x00 (loByte s.y) else s.y
          sp := sp
          pc := s.pc + BitVec.ofNat 16 (instrLength i)
          bus := t.bus }
    writes .plp (s.stackByte (s.sUp 1)) (s.sUp 1) ∧
    writes (.repImm v) (s.p &&& ~~~v) s.sp ∧ writes (.sepImm v) (s.p ||| v) s.sp

/-! ### Control flow -/

/-- R290 to R300: the nine relative branches and BRL, with their encodings. A branch adds the signed displacement
to the address of the next instruction when its condition holds, inside the program bank, and changes nothing
else. -/
def Obligations.Branches : Prop :=
  ∀ (s : State) (off : Byte) (long : Word),
    let goes := fun (i : Instr) (opcode : Byte) (cond : Bool) =>
      encode i = [opcode, off] ∧ ∃ t, exec i s = .next t ∧
        (t.pc.toNat : Int) = (s.pc.toNat + 2 + if cond then off.toInt else 0) % 65536 ∧ t = { s with pc := t.pc }
    goes (.bcc off) 0x90 (!getFlag s.p .c) ∧ goes (.bcs off) 0xB0 (getFlag s.p .c) ∧
    goes (.beq off) 0xF0 (getFlag s.p .z) ∧ goes (.bne off) 0xD0 (!getFlag s.p .z) ∧
    goes (.bmi off) 0x30 (getFlag s.p .n) ∧ goes (.bpl off) 0x10 (!getFlag s.p .n) ∧
    goes (.bvs off) 0x70 (getFlag s.p .v) ∧ goes (.bvc off) 0x50 (!getFlag s.p .v) ∧ goes (.bra off) 0x80 true ∧
    encode (.brl long) = 0x82 :: wordBytes long ∧
    ∃ t, exec (.brl long) s = .next t ∧ t.pc.toNat = (s.pc.toNat + 3 + long.toNat) % 65536 ∧
      t = { s with pc := t.pc }

/-- R301 to R305: the jumps, with their encodings. The pointer of JMP (a) and JML (a) lies in bank 0, that of
JMP (a,x) in the program bank; PBR changes in JMP al and JML only. -/
def Obligations.Jumps : Prop :=
  ∀ (s : State) (a : Word) (al : Addr),
    let byte := fun (bank : Byte) (k : Nat) (base : Word) => s.peek .pointer (mkAddr bank (base + BitVec.ofNat 16 k))
    encode (.jmpAbs a) = 0x4C :: wordBytes a ∧ encode (.jmpLong al) = 0x5C :: addrBytes al ∧
    encode (.jmpAbsInd a) = 0x6C :: wordBytes a ∧ encode (.jmpAbsXInd a) = 0x7C :: wordBytes a ∧
    encode (.jmlAbsInd a) = 0xDC :: wordBytes a ∧
    exec (.jmpAbs a) s = .next { s with pc := a } ∧
    exec (.jmpLong al) s = .next { s with pc := offOf al, pbr := bankOf al } ∧
    (∃ t, exec (.jmpAbsInd a) s = .next t ∧
      t = { s with pc := mkWord (byte 0 1 a) (byte 0 0 a), bus := t.bus }) ∧
    (∃ t, exec (.jmpAbsXInd a) s = .next t ∧
      t = { s with pc := mkWord (byte s.pbr 1 (a + s.x)) (byte s.pbr 0 (a + s.x)), bus := t.bus }) ∧
    (∃ t, exec (.jmlAbsInd a) s = .next t ∧
      t = { s with pc := mkWord (byte 0 1 a) (byte 0 0 a), pbr := byte 0 2 a, bus := t.bus })

/-- R306 to R308: the calls. JSR pushes the address of its last byte; JSL pushes PBR first. JSR (a,x) and JSL
fetch their last operand byte after pushes: where none of those bytes changes it, it is the operand's, and where
the operand is what was read before the pushes, it is what is read after them. The return address is the spec's inference (U10),
the stack addresses of JSR (a,x) and JSL its choice D7, the late fetch the model's reading (notes/assumptions/9,
18, 29). A byte the platform owns keeps its value: notes/assumptions/4. R306 marks the return address as an
inference, R263 the 01 in SH (notes/assumptions/40). -/
def Obligations.Calls : Prop :=
  ∀ (s : State) (a : Word) (al : Addr),
    let code := fun (k : Nat) => s.codeAddr k
    let at' := fun (k : Nat) => s.sp - BitVec.ofNat 16 k
    let hits := fun (k n : Nat) =>
      phys s.cfg.variant (stackAddr (at' k)) = phys s.cfg.variant (code n) ∧ s.StackRam (at' k)
    (∃ t, exec (.jsrAbs a) s = .next t ∧
      Pushes s t s.sDown [hiByte (s.pc + 2), loByte (s.pc + 2)] ∧
      t = { s with sp := s.sDown 2, pc := a, mem := t.mem, bus := t.bus }) ∧
    (∃ t hi, exec (.jsrAbsXInd a) s = .next t ∧
      Pushes s t at' [hiByte (s.pc + 2), loByte (s.pc + 2)] ∧
      (¬ hits 0 2 → ¬ hits 1 2 → hi = hiByte a) ∧
      (s.peek .operand (code 2) = hiByte a → hi = t.peek .operand (code 2)) ∧
      (let pa := mkWord hi (loByte a) + s.x
       t.pc = mkWord (t.peek .pointer (mkAddr s.pbr (pa + 1))) (t.peek .pointer (mkAddr s.pbr pa))) ∧
      t = { s with sp := fixedSp s.e (s.sp - 2), pc := t.pc, mem := t.mem, bus := t.bus }) ∧
    (∃ t, exec (.jslLong al) s = .next t ∧
      Pushes s t at' [s.pbr, hiByte (s.pc + 3), loByte (s.pc + 3)] ∧
      (¬ hits 0 3 → t.pbr = bankOf al) ∧
      (s.peek .operand (code 3) = bankOf al → hits 0 3 → t.pbr = s.pbr) ∧
      t = { s with sp := fixedSp s.e (s.sp - 3), pc := offOf al, pbr := t.pbr, mem := t.mem, bus := t.bus })

/-- R309, R310: RTS resumes after the pulled address, RTL also in the pulled bank. The addition of 1 by RTL is
supplied by the spec (U10; notes/assumptions/9), its stack addresses are its choice D7 (notes/assumptions/18).
The 01 in SH after RTL is its inference (R263; notes/assumptions/40). -/
def Obligations.Returns : Prop :=
  ∀ s : State,
    let at' := fun (k : Nat) => s.sp + BitVec.ofNat 16 k
    (∃ t, exec .rts s = .next t ∧
      t = { s with pc := mkWord (s.stackByte (s.sUp 2)) (s.stackByte (s.sUp 1)) + 1,
                   sp := s.sUp 2, bus := t.bus }) ∧
    (∃ t, exec .rtl s = .next t ∧
      t = { s with pc := mkWord (s.stackByte (at' 2)) (s.stackByte (at' 1)) + 1,
                   pbr := s.stackByte (at' 3), sp := fixedSp s.e (s.sp + 3), bus := t.bus })

/-- R306 to R311: in Native mode, where the stack is RAM, a return finds the caller: RTS after JSR a or JSR
(a,x), and RTL after JSL, give back S, the caller's bank and the address of the next instruction. It rests on
the convention U10 (notes/assumptions/9). What is RAM is the model's form of D1 (notes/assumptions/4). R306
marks the return address as an inference (notes/assumptions/40). -/
def Obligations.CallThenReturn : Prop :=
  ∀ (s u t : State) (a : Word) (al : Addr), s.e = false →
    ((∀ k, k < 2 → s.StackRam (s.sp - BitVec.ofNat 16 k)) →
      exec (.jsrAbs a) s = .next u ∨ exec (.jsrAbsXInd a) s = .next u → exec .rts u = .next t →
      t.sp = s.sp ∧ t.pc = s.pc + 3 ∧ t.pbr = s.pbr) ∧
    ((∀ k, k < 3 → s.StackRam (s.sp - BitVec.ofNat 16 k)) →
      exec (.jslLong al) s = .next u → exec .rtl u = .next t →
      t.sp = s.sp ∧ t.pc = s.pc + 4 ∧ t.pbr = s.pbr)

/-! ### Status and mode -/

/-- R330 to R336: the seven single-flag instructions, with their encodings. -/
def Obligations.FlagInstructions : Prop :=
  ∀ s : State,
    let sets := fun (i : Instr) (opcode : Byte) (f : Flag) (b : Bool) =>
      encode i = [opcode] ∧
      ∃ t, exec i s = .next t ∧ getFlag t.p f = b ∧ KeepsFlags s.p t.p [f] ∧
        t = { s with p := t.p, pc := s.pc + 1 }
    sets .clc 0x18 .c false ∧ sets .cld 0xD8 .d false ∧ sets .cli 0x58 .i false ∧ sets .clv 0xB8 .v false ∧
    sets .sec 0x38 .c true ∧ sets .sed 0xF8 .d true ∧ sets .sei 0x78 .i true

/-- R341, R31, R22: XCE exchanges C and E. Entering Emulation mode sets M and X, forces SH to 01 and the
index high bytes to 00; leaving it changes nothing else. That leaving it keeps M and X, and that D, DBR, PBR and
the other flags keep their values in both directions, are inferences of the spec (R31, R341;
notes/assumptions/40). -/
def Obligations.ExchangeModes : Prop :=
  ∀ s : State, ∃ t, exec .xce s = .next t ∧
    t.e = getFlag s.p .c ∧ getFlag t.p .c = s.e ∧
    (t.e = true →
      getFlag t.p .m = true ∧ getFlag t.p .x = true ∧ KeepsFlags s.p t.p [.c, .m, .x] ∧
      t.sp = mkWord 0x01 (loByte s.sp) ∧ t.x = mkWord 0x00 (loByte s.x) ∧ t.y = mkWord 0x00 (loByte s.y)) ∧
    (t.e = false → KeepsFlags s.p t.p [.c] ∧ t.sp = s.sp ∧ t.x = s.x ∧ t.y = s.y) ∧
    t = { s with e := t.e, p := t.p, sp := t.sp, x := t.x, y := t.y, pc := s.pc + 1 }

/-- R23, R27, R28, R30: who writes E, D, PBR and DBR. An instruction outside the list leaves the register as it
is; BRK and COP change DBR in Emulation mode only. That the interrupt sequence leaves D and E, and XCE D, PBR
and DBR, are inferences of the spec (R341, R410; notes/assumptions/40). -/
def Obligations.RegisterWriters : Prop :=
  ∀ (i : Instr) (s t : State), exec i s = .next t →
    (i ≠ .xce → t.e = s.e) ∧
    (i ≠ .tcd → i ≠ .pld → t.d = s.d) ∧
    (i ≠ .rti → i ≠ .rtl → (∀ a, i ≠ .jmlAbsInd a) → (∀ a, i ≠ .jslLong a) → (∀ a, i ≠ .jmpLong a) →
      (∀ g, i ≠ .brk g) → (∀ g, i ≠ .cop g) → t.pbr = s.pbr) ∧
    (i ≠ .plb → (∀ d r, i ≠ .mvn d r) → (∀ d r, i ≠ .mvp d r) →
      (s.e = true → (∀ g, i ≠ .brk g) ∧ ∀ g, i ≠ .cop g) → t.dbr = s.dbr)

/-! ### Block moves -/

/-- R353, R68 (f), R355: one step of MVN or MVP. A byte goes from srcbnk:X to dstbnk:Y; X and Y move by one at
the index width, C counts down, DBR is the destination bank; PC stays on the opcode unless C was 0. That a step
is an instruction of its own is the spec's inference (U11; notes/assumptions/35), the final C its parameter (U6;
notes/assumptions/7). A byte the platform owns keeps its value: notes/assumptions/4. -/
def Obligations.BlockMoveStep : Prop :=
  ∀ (s : State) (dst src : Byte),
    let n := 2 ^ widthBits s.xw
    let b := s.peek .read (mkAddr src s.x)
    let da := phys s.cfg.variant (mkAddr dst s.y)
    let moves := fun (i : Instr) (delta : Nat) =>
      ∃ t, exec i s = .next t ∧ (s.IsRam da → t.mem.read da = b) ∧
        (∀ a, a ≠ da ∨ ¬ s.IsRam a → t.mem.read a = s.mem.read a) ∧
        t.x.toNat = (s.x.toNat % n + delta) % n ∧ t.y.toNat = (s.y.toNat % n + delta) % n ∧
        (s.c ≠ 0 → t.c = s.c - 1 ∧ t.pc = s.pc) ∧
        (s.c = 0 → t.pc = s.pc + 3 ∧ (s.cfg.blockMoveFinalC = .ffff → t.c = 0xFFFF) ∧
          (s.cfg.blockMoveFinalC = .zero → t.c = 0x0000)) ∧
        t.bus = s.bus ++ [⟨.read, phys s.cfg.variant (mkAddr src s.x), b, false⟩, ⟨.write, da, b, false⟩] ∧
        t = { s with c := t.c, x := t.x, y := t.y, dbr := dst, pc := t.pc, mem := t.mem, bus := t.bus }
    moves (.mvn dst src) 1 ∧ moves (.mvp dst src) (n - 1)

/-- R351 to R354: a whole block move, with index registers of either width. After C + 1 steps X and Y have moved
by C + 1 at the index width, PC is behind the instruction, and every byte has been copied, where the destination
is RAM, no step reads a byte that an earlier one wrote, and 8-bit index registers do not come round. Every byte
outside the destination, and every byte the platform owns, keeps its value, and so does every other register;
what the platform answers to the reads does not change while the move runs (notes/assumptions/4). That the move is C + 1 executions of the instruction is the spec's inference (U11;
notes/assumptions/35), the final C its parameter (U6; notes/assumptions/7). -/
def Obligations.BlockMoveWhole : Prop :=
  ∀ (s : State) (dst src : Byte), s.indexInv →
    let n := s.c.toNat + 1
    let moved := fun (i : Instr) (delta : Word) =>
      let index := fun (v : Word) (k : Nat) => trunc s.xw (v + delta * BitVec.ofNat 16 k)
      let sa := fun (k : Nat) => phys s.cfg.variant (mkAddr src (index s.x k))
      let da := fun (k : Nat) => phys s.cfg.variant (mkAddr dst (index s.y k))
      ∃ t, execTimes i n s = .next t ∧
        ((s.xw = .w8 → n ≤ 256) → (∀ k, k < n → s.IsRam (da k)) →
          (∀ j k, k < j → j < n → sa j ≠ da k) → ∀ k, k < n → t.mem.read (da k) = s.busRead .read (sa k)) ∧
        (∀ a, (∀ k, k < n → a ≠ da k) ∨ ¬ s.IsRam a → t.mem.read a = s.mem.read a) ∧
        t = { s with
          c := if s.cfg.blockMoveFinalC = .ffff then 0xFFFF else 0x0000
          x := index s.x n
          y := index s.y n
          dbr := dst
          pc := s.pc + 3
          mem := t.mem
          bus := t.bus }
    moved (.mvn dst src) 1 ∧ moved (.mvp dst src) (-1)

/-! ### System instructions and interrupts -/

/-- R360, R361, R410 to R414: BRK and COP run the interrupt sequence with the address of the byte after the
signature. That address and that nothing else changes are the spec's inferences (R360, R410;
notes/assumptions/40); that COP has no effect beside the sequence is its reading of a sentence it cannot explain
(R361, N12; notes/assumptions/31). A byte the platform owns keeps its value: notes/assumptions/4. -/
def Obligations.SoftwareInterrupts : Prop :=
  ∀ (s : State) (sig : Byte),
    (∃ t, exec (.brk sig) s = .next t ∧ Entered s t .brk (s.pc + 2)) ∧
    (∃ t, exec (.cop sig) s = .next t ∧ Entered s t .cop (s.pc + 2))

/-- R401: the vectors: the address of the handler is read at these places in bank 0. The vector of NMI- in
Emulation mode is the choice C2 of the spec (notes/assumptions/32). -/
def Obligations.Vectors : Prop :=
  ∀ (s : State) (ret : Word),
    let word := fun (t : State) (a : Nat) =>
      (t.busRead .vector (a + 1)).toNat * 256 + (t.busRead .vector a).toNat
    let goes := fun (src : Source) (emulation native : Nat) =>
      let t := s.interrupt src ret
      t.pc.toNat = word t (if s.e then emulation else native)
    goes .irq 0xFFFE 0xFFEE ∧ goes .brk 0xFFFE 0xFFE6 ∧ goes .nmi 0xFFFA 0xFFEA ∧
    goes .abort 0xFFF8 0xFFE8 ∧ goes .cop 0xFFF4 0xFFE4 ∧
    (State.resetSequence s).pc.toNat = word s 0xFFFC

/-- R362: RTI pulls P, normalised, then PC, then in Native mode PBR; E and DBR are not restored. -/
def Obligations.ReturnFromInterrupt : Prop :=
  ∀ s : State,
    let pulled := s.stackByte (s.sUp 1)
    let p := if s.e then pulled ||| 0b00110000 else pulled
    let narrow := p.getLsbD 4
    ∃ t, exec .rti s = .next t ∧
      t = { s with
        p := p
        x := if narrow then mkWord 0x00 (loByte s.x) else s.x
        y := if narrow then mkWord 0x00 (loByte s.y) else s.y
        pc := mkWord (s.stackByte (s.sUp 3)) (s.stackByte (s.sUp 2))
        pbr := if s.e then s.pbr else s.stackByte (s.sUp 4)
        sp := if s.e then s.sUp 3 else s.sUp 4
        bus := t.bus }

/-- R411, R412, R425: RTI after an interrupt sequence whose stack is RAM resumes the interrupted program at the
return address with P as it was and, in Native mode, every register as it was; in Emulation mode PBR and DBR are
00 (R465). That the sequence leaves C, X, Y, D and E is the spec's inference (R410; notes/assumptions/40). What
is RAM is the model's form of D1 (notes/assumptions/4). -/
def Obligations.InterruptThenReturn : Prop :=
  ∀ (s u t : State) (src : Source) (ret : Word), s.flagsInv → s.stackInv → s.indexInv →
    (∀ k, k < (s.frameBytes src ret).length → s.StackRam (s.sDown k)) →
    u = s.interrupt src ret → exec .rti u = .next t →
    t.p = s.p ∧ t.pc = ret ∧ t.c = s.c ∧ t.x = s.x ∧ t.y = s.y ∧ t.sp = s.sp ∧ t.d = s.d ∧ t.e = s.e ∧
    t.pbr = (if s.e then 0x00 else s.pbr) ∧ t.dbr = (if s.e then 0x00 else s.dbr)

/-- R402, R403 steps 5 and 6, R411, R415, R416: NMI- is taken whatever P.I is, and before IRQ-; IRQ- is taken
when P.I = 0. The return address is PC at the boundary, which after a wait is behind the WAI. That inputs arrive
at boundaries and that P.I counts as it stands there are the spec's choices D2 and D3 (notes/assumptions/10,
11); that nothing else changes is its inference (R410; notes/assumptions/40). A byte the platform owns keeps its
value: notes/assumptions/4. -/
def Obligations.HardwareInterrupts : Prop :=
  ∀ s : State,
    let u := s.present
    u.Running → s.NoAbort → u.NoAbortPending →
    (u.nmiPending = true → ∃ t, step s = .next t ∧
      Entered { u with waiting := false, nmiPending := false } t .nmi u.pc) ∧
    (u.nmiPending = false → u.irqLow = true → getFlag u.p .i = false → ∃ t, step s = .next t ∧
      Entered { u with waiting := false } t .irq u.pc)

/-- R402, R403 step 4, R411, R420: on the W65C816 a pending ABORT- is taken before NMI- and IRQ-. The return
address is PC, the aborted opcode; after a wait that of the WAI. The order after a wait is the spec's choice D4
(notes/assumptions/16), that nothing else changes its inference (R410; notes/assumptions/40). A byte the
platform owns keeps its value: notes/assumptions/4. That a boundary pulse sets the latch is its choice D2
(notes/assumptions/10). -/
def Obligations.AbortTaken : Prop :=
  ∀ s : State,
    let u := s.present
    u.Running → s.NoAbort → u.abortPending = true → u.cfg.variant = .w65c816 →
    ∃ t, step s = .next t ∧
      Entered { u with waiting := false, abortPending := false,
                       pc := if u.waiting then u.pc - 1 else u.pc } t .abort
        (if u.waiting then u.pc - 1 else u.pc)

/-- R420 steps 2 and 3, R421: what ABORT- leaves of an instruction and of a hardware interrupt sequence. In
time, by a pulse or by the first access that external hardware rejects, it leaves every register as it was
before, the abort pending. After the last abortable cycle, in the write-back of a read-modify-write, the pulls
of RTI, the pushes and vector reads of BRK, COP and the hardware sequences, it leaves P written by the first, P
with what it does to X and Y by the second, PBR and in Emulation mode DBR 00 by the others. All accesses are
made, and every byte that no blocked write went to is as it would be without the abort. A WAI that waits and a
STP keep what they did, with the abort pending. How ABORT- reaches the machine is the spec's choice D5
(notes/assumptions/12), the late updates the one of two it allows (D19, U12; notes/assumptions/13), WAI and STP
the model's inference (notes/assumptions/14), an aborted sequence too (notes/assumptions/15); that all accesses
are made is the spec's inference (R420; notes/assumptions/40). -/
def Obligations.AbortRestores : Prop :=
  (∀ (s r : State) (i : Instr) (rest : List Byte),
    let u : State := { s.present with waiting := false }
    let cls := abortClass i
    s.present.Running → u.NoAbortPending → u.nmiPending = false →
    (u.irqLow = true → getFlag u.p .i = true) →
    decode (getFlag u.p .m) (getFlag u.p .x) u.codeBytes = .ok (i, rest) →
    exec i (u.noteFetch i) = .next r →
    (r.waiting = true ∨ r.stopped = true → s.AbortsInTime r cls ∨ s.AbortsLate r cls →
      step s = .next { r with abortPending := true }) ∧
    (r.waiting = false → r.stopped = false →
      (s.AbortsInTime r cls → ∃ t, step s = .next t ∧ Aborted u r t) ∧
      (s.AbortsLate r cls → ∃ t, step s = .next t ∧
        (cls = .plain → Aborted u r t) ∧
        (cls = .modify → Aborted { u with p := r.p } r t) ∧
        (cls = .rti → Aborted { u with p := r.p, x := r.x, y := r.y } r t) ∧
        (cls = .sequence →
          Aborted { u with pbr := 0x00, dbr := if u.e then 0x00 else u.dbr } r t)))) ∧
  ∀ (s v : State) (src : Source), s.present.Running → s.present.Starts src v →
    let r := v.interrupt src v.pc
    (s.AbortsInTime r .sequence → ∃ t, step s = .next t ∧ Aborted v r t) ∧
    (s.AbortsLate r .sequence → ∃ t, step s = .next t ∧
      Aborted { v with pbr := 0x00, dbr := if v.e then 0x00 else v.dbr } r t)

/-- R62, D1, R420, D5: what the platform alone decides. A byte it owns, of ROM or of a device, and on the
W65C816 a byte for which external hardware, as the boundary leaves it, rejects and blocks every write, is after
every step what the platform has left there. The ranges are the model's form of D1 and D5 (notes/assumptions/4, notes/assumptions/12). -/
def Obligations.GuardedBytesKept : Prop :=
  ∀ (s t : State) (a : Nat),
    ¬ s.IsRam a ∨
      (s.cfg.variant = .w65c816 ∧ ∃ r ∈ s.present.abortRanges,
        .write ∈ r.kinds ∧ .modify ∈ r.kinds ∧ r.blocks = true ∧ r.lo ≤ a ∧ a ≤ r.hi) →
    step s = .next t → t.mem.read a = s.present.mem.read a

/-- R363 to R366: WAI waits unless RDY is forced high, STP stops, NOP and WDM only move PC on. RDY forced high
is an input by the spec's choice D16 (notes/assumptions/33). -/
def Obligations.WaitStopNop : Prop :=
  ∀ (s : State) (b : Byte),
    exec .wai s = .next { s with waiting := !s.rdyForcedHigh, pc := s.pc + 1 } ∧
    exec .stp s = .next { s with stopped := true, pc := s.pc + 1 } ∧
    exec .nop s = .next { s with pc := s.pc + 1 } ∧
    exec (.wdm b) s = .next { s with pc := s.pc + 2 }

/-- R435 (a), (b): a waiting machine that no NMI- and no IRQ- wakes goes on waiting; ABORT- only sets its latch.
A stopped machine stays stopped whatever comes but RES-. That a latched ABORT- keeps the wait is the spec's
choice D4 (notes/assumptions/16). That such a step still takes in the inputs of its boundary is the model's
choice (notes/assumptions/10, 37). -/
def Obligations.WaitingAndStopped : Prop :=
  ∀ s : State,
    let u := s.present
    u.resLow = false → u.inReset = false →
    (u.stopped = true → step s = .next u) ∧
    (u.stopped = false → u.waiting = true → u.nmiPending = false → u.irqLow = false →
      ∃ t, step s = .next t ∧ t = { u with abortPending := t.abortPending } ∧
        t.abortPending = (u.abortPending || s.abortPin == .early || s.abortPin == .late))

/-- R402, R450, R451: while RES- is low every step leaves the values of reset, takes no interrupt and writes
no memory; when it is high again the next step loads PC from 00FFFC,D and pushes nothing. The cleared latches
are the spec's choice D6 (notes/assumptions/17), the two steps of a reset and that ABORT- has no effect in them
the model's (notes/assumptions/25, 41). -/
def Obligations.ResetInput : Prop :=
  ∀ s : State,
    let u := s.present
    (u.resLow = true → ∃ t, step s = .next t ∧
      t.d = 0x0000 ∧ t.dbr = 0x00 ∧ t.pbr = 0x00 ∧ hiByte t.sp = 0x01 ∧ hiByte t.x = 0x00 ∧
      hiByte t.y = 0x00 ∧ getFlag t.p .m = true ∧ getFlag t.p .x = true ∧ getFlag t.p .d = false ∧
      getFlag t.p .i = true ∧ t.e = true ∧ t.waiting = false ∧ t.stopped = false ∧ t.nmiPending = false ∧
      t.abortPending = false ∧ t.inReset = true ∧ t.mem = u.mem) ∧
    (u.resLow = false → u.inReset = true → ∃ t, step s = .next t ∧
      t.pc = mkWord (u.busRead .vector 0xFFFD) (u.busRead .vector 0xFFFC) ∧
      t = { u with inReset := false, nmiPending := false, abortPending := false, pc := t.pc, bus := t.bus })

/-- R35, R38, R441, R6, R62: the inputs of a boundary. The levels are those presented; an edge of NMI- and, on
the W65C816 alone, a pulse of ABORT- stay latched; an edge of SO- sets V on the W65C802 and nothing on the
W65C816; a byte the platform sets reads as it was last set, every other as before; the platform's answers to single
accesses of the step are those presented; the accesses it answers with ABORT- are those presented, where it presents
any (D5; notes/assumptions/12); no register but P changes. With nothing presented nothing changes but
the answers, of which there are none. That inputs arrive at boundaries is the spec's choice D2, when SO- acts
its choice D8, the bytes set are the model's form of D1 (notes/assumptions/4, 10, 19). That NMI- and SO- come as
edges and IRQ- and RES- as levels is the spec's inference (R38, R416; notes/assumptions/34). -/
def Obligations.InputsPresented : Prop :=
  (∀ s : State, s.inputs = [] → s.present = { s with bus := [], answers := [] }) ∧
  ∀ (s : State) (i : Inputs) (l : List Inputs), s.inputs = i :: l →
    let u := s.present
    u.resLow = i.resLow ∧ u.irqLow = i.irqLow ∧ u.rdyForcedHigh = i.rdyForcedHigh ∧
    u.nmiPending = (s.nmiPending || i.nmiEdge) ∧ u.inputs = l ∧ u.answers = i.answers ∧
    u.abortRanges = i.abortRanges.getD s.abortRanges ∧
    (s.cfg.variant = .w65c802 → i.soEdge = true → getFlag u.p .v = true ∧ KeepsFlags s.p u.p [.v]) ∧
    (s.cfg.variant = .w65c816 ∨ i.soEdge = false → u.p = s.p) ∧
    (s.cfg.variant = .w65c816 → i.abort = .boundary → u.abortPending = true) ∧
    (s.cfg.variant = .w65c802 ∨ i.abort ≠ .boundary → u.abortPending = s.abortPending) ∧
    (∀ a, u.mem.read a = if a < physSize s.cfg.variant then (i.sets.reverse.lookup a).getD (s.mem.read a)
      else s.mem.read a) ∧
    u = { s with
      resLow := u.resLow, irqLow := u.irqLow, rdyForcedHigh := u.rdyForcedHigh, nmiPending := u.nmiPending
      abortPending := u.abortPending, p := u.p, mem := u.mem, inputs := u.inputs, answers := u.answers
      abortRanges := u.abortRanges, bus := [] }

/-! ### Timing -/

/-- R471 to R473: every instruction takes 2 to 9 cycles, where a block move is counted one byte at a time, as a
step makes it (7 cycles, of the 7 (C + 1) of R472 (h)), and WAI without the time it waits (R472 (i)). Both are
the model's way to count: D18 and notes/assumptions/23, 35. -/
def Obligations.CycleBounds : Prop := ∀ (s : State) (i : Instr), 2 ≤ s.cycles i ∧ s.cycles i ≤ 9
end

