-- ==== Sys2Proof/Laws/Words.lean ====
section
/-!
SUPPORT. The small lemmas of the byte, word and address helpers, of the flags of P and of the widths.
-/

namespace Sys2Proof

@[simp] theorem loByte_mkWord (hi lo : Byte) : loByte (mkWord hi lo) = lo := by
  apply BitVec.eq_of_getLsbD_eq
  intro i hi'
  simp only [loByte, mkWord, BitVec.getLsbD_extractLsb', BitVec.getLsbD_append, hi', decide_true,
    Bool.true_and, Nat.zero_add, if_true]

@[simp] theorem hiByte_mkWord (hi lo : Byte) : hiByte (mkWord hi lo) = hi := by
  apply BitVec.eq_of_getLsbD_eq
  intro i hi'
  simp only [hiByte, mkWord, BitVec.getLsbD_extractLsb', BitVec.getLsbD_append, hi', decide_true,
    Bool.true_and, show ¬ 8 + i < 8 by omega, if_false, Nat.add_sub_cancel_left]

@[simp] theorem mkWord_hi_lo (w : Word) : mkWord (hiByte w) (loByte w) = w := by
  apply BitVec.eq_of_getLsbD_eq
  intro i hi'
  simp only [hiByte, loByte, mkWord, BitVec.getLsbD_extractLsb', BitVec.getLsbD_append]
  by_cases h : i < 8
  · simp [h]
  · simp only [h, if_false, show i - 8 < 8 by omega, decide_true, Bool.true_and]
    congr 1; omega

@[simp] theorem bankOf_mkAddr (b : Byte) (o : Word) : bankOf (mkAddr b o) = b := by
  apply BitVec.eq_of_getLsbD_eq
  intro i hi'
  simp only [bankOf, mkAddr, BitVec.getLsbD_extractLsb', BitVec.getLsbD_append, hi', decide_true,
    Bool.true_and, show ¬ 16 + i < 16 by omega, if_false, Nat.add_sub_cancel_left]

@[simp] theorem offOf_mkAddr (b : Byte) (o : Word) : offOf (mkAddr b o) = o := by
  apply BitVec.eq_of_getLsbD_eq
  intro i hi'
  simp only [offOf, mkAddr, BitVec.getLsbD_extractLsb', BitVec.getLsbD_append, hi', decide_true,
    Bool.true_and, Nat.zero_add, if_true]

@[simp] theorem mkAddr_bank_off (a : Addr) : mkAddr (bankOf a) (offOf a) = a := by
  apply BitVec.eq_of_getLsbD_eq
  intro i hi'
  simp only [bankOf, offOf, mkAddr, BitVec.getLsbD_extractLsb', BitVec.getLsbD_append]
  by_cases h : i < 16
  · simp [h]
  · simp only [h, if_false, show i - 16 < 8 by omega, decide_true, Bool.true_and]
    congr 1; omega

theorem loByte_toNat (w : Word) : (loByte w).toNat = w.toNat % 256 := by
  simp [loByte, BitVec.extractLsb'_toNat]

theorem hiByte_toNat (w : Word) : (hiByte w).toNat = w.toNat / 256 := by
  have := w.isLt
  simp only [hiByte, BitVec.extractLsb'_toNat, Nat.shiftRight_eq_div_pow]; omega

theorem mkWord_toNat (hi lo : Byte) : (mkWord hi lo).toNat = hi.toNat * 256 + lo.toNat := by
  have h := hiByte_mkWord hi lo
  have l := loByte_mkWord hi lo
  have h' := congrArg BitVec.toNat h
  have l' := congrArg BitVec.toNat l
  rw [hiByte_toNat] at h'
  rw [loByte_toNat] at l'
  omega

theorem bankOf_toNat (a : Addr) : (bankOf a).toNat = a.toNat / 65536 := by
  have := a.isLt
  simp only [bankOf, BitVec.extractLsb'_toNat, Nat.shiftRight_eq_div_pow]; omega

theorem offOf_toNat (a : Addr) : (offOf a).toNat = a.toNat % 65536 := by
  simp [offOf, BitVec.extractLsb'_toNat]

theorem mkAddr_toNat (b : Byte) (o : Word) : (mkAddr b o).toNat = b.toNat * 65536 + o.toNat := by
  have h' := congrArg BitVec.toNat (bankOf_mkAddr b o)
  have l' := congrArg BitVec.toNat (offOf_mkAddr b o)
  rw [bankOf_toNat] at h'
  rw [offOf_toNat] at l'
  omega

theorem mkWord_inj (h l h' l' : Byte) : mkWord h l = mkWord h' l' ↔ h = h' ∧ l = l' := by
  constructor
  · intro e
    exact ⟨by rw [← hiByte_mkWord h l, e, hiByte_mkWord], by rw [← loByte_mkWord h l, e, loByte_mkWord]⟩
  · rintro ⟨rfl, rfl⟩; rfl

theorem mkAddr_inj (b : Byte) (o : Word) (b' : Byte) (o' : Word) :
    mkAddr b o = mkAddr b' o' ↔ b = b' ∧ o = o' := by
  constructor
  · intro e
    exact ⟨by rw [← bankOf_mkAddr b o, e, bankOf_mkAddr], by rw [← offOf_mkAddr b o, e, offOf_mkAddr]⟩
  · rintro ⟨rfl, rfl⟩; rfl

namespace Machine

/-! ### Flags -/

/-- Writing one flag sets it and leaves the others. -/
@[simp] theorem getFlag_putFlag (p : Byte) (f g : Flag) (b : Bool) :
    getFlag (putFlag p f b) g = if g = f then b else getFlag p g := by
  cases b <;> cases f <;> cases g <;>
    simp [getFlag, putFlag, flagBit]

/-- P is the eight flags. -/
theorem flags_ext (p q : Byte) (h : ∀ f, getFlag p f = getFlag q f) : p = q := by
  apply BitVec.eq_of_getLsbD_eq
  intro i hi
  have h7 := h .n
  have h6 := h .v
  have h5 := h .m
  have h4 := h .x
  have h3 := h .d
  have h2 := h .i
  have h1 := h .z
  have h0 := h .c
  simp only [getFlag, flagBit] at h0 h1 h2 h3 h4 h5 h6 h7
  interval_cases i <;> assumption

/-- Setting M and X, as the normalisation of R339 does. -/
theorem putFlag_m_x (p : Byte) : putFlag (putFlag p .m true) .x true = p ||| 0b00110000 := by
  simp only [putFlag, flagBit, if_true, BitVec.or_assoc]; rfl

/-- `SetNZ` (R13): what each flag is afterwards. -/
@[simp] theorem getFlag_setNZ (w : Width) (r : Word) (p : Byte) (f : Flag) :
    getFlag (setNZ w r p) f =
      if f = .z then trunc w r == 0#16 else if f = .n then topBit w r else getFlag p f := by
  cases f <;> simp [setNZ]

/-! ### Widths -/

theorem trunc_toNat (w : Width) (v : Word) : (trunc w v).toNat = v.toNat % 2 ^ widthBits w := by
  cases w
  · have : trunc .w8 v = mkWord 0x00 (loByte v) := rfl
    rw [this, mkWord_toNat, loByte_toNat]; simp [widthBits]
  · have := v.isLt
    simp only [trunc, widthBits]; omega

@[simp] theorem trunc_w16 (v : Word) : trunc .w16 v = v := rfl

theorem trunc_w8 (v : Word) : trunc .w8 v = mkWord 0x00 (loByte v) := rfl

@[simp] theorem trunc_trunc (w : Width) (v : Word) : trunc w (trunc w v) = trunc w v := by
  cases w
  · rw [trunc_w8, trunc_w8, loByte_mkWord]
  · rfl

/-- A truncated value is 0 exactly when the value is 0 modulo 2^w. -/
theorem trunc_eq_zero (w : Width) (v : Word) :
    (trunc w v == 0#16) = decide (v.toNat % 2 ^ widthBits w = 0) := by
  rw [← trunc_toNat, Bool.eq_iff_iff, beq_iff_eq, decide_eq_true_eq]
  constructor
  · intro h; rw [h]; rfl
  · intro h; exact BitVec.eq_of_toNat_eq h

/-- The low bits of a truncated value are those of the value, the others are 0. -/
theorem getLsbD_trunc (w : Width) (v : Word) (k : Nat) :
    (trunc w v).getLsbD k = (decide (k < widthBits w) && v.getLsbD k) := by
  cases w
  · rw [trunc_w8]
    simp only [mkWord, loByte, widthBits, BitVec.getLsbD_append, BitVec.getLsbD_extractLsb']
    by_cases h : k < 8 <;> simp [h]
  · by_cases h : k < 16
    · simp [trunc, widthBits, h]
    · simp [trunc, widthBits, h, BitVec.getLsbD_of_ge _ _ (Nat.le_of_not_lt h)]

theorem topBit_trunc (w : Width) (v : Word) : topBit w (trunc w v) = topBit w v := by
  simp only [topBit, getLsbD_trunc]
  cases w <;> simp [widthBits]

/-- The accumulator written at 8 bits keeps B. -/
theorem insertAcc_w8 (c v : Word) : insertAcc .w8 c v = mkWord (hiByte c) (loByte v) := rfl

@[simp] theorem insertAcc_w16 (c v : Word) : insertAcc .w16 c v = v := rfl

end Machine

end Sys2Proof
end

