-- ==== Sys2Proof/Laws/Arith.lean ====
section
/-!
SUPPORT. What the adder's overflow says of signed numbers, and the arithmetic of the decimal adder's digits.
-/

namespace Sys2Proof.Machine

/-- The top bit says that the value, as a number of its width, is at least half the range. -/
theorem topBit_iff (w : Width) (v : Word) :
    topBit w v = true ↔ 2 ^ (widthBits w - 1) ≤ v.toNat % 2 ^ widthBits w := by
  have : topBit w v = (v.toNat % 2 ^ widthBits w).testBit (widthBits w - 1) := by
    rw [← trunc_toNat, BitVec.testBit_toNat, ← topBit, topBit_trunc]
  rw [this]
  have hlt : v.toNat % 2 ^ widthBits w < 2 ^ widthBits w := Nat.mod_lt _ (Nat.two_pow_pos _)
  cases w <;> simp only [widthBits] at * <;>
    rw [Nat.testBit_eq_decide_div_mod_eq, decide_eq_true_iff] <;> norm_num at * <;> omega

/-- The signed value from the unsigned one and the top bit. -/
theorem signedValue_eq (w : Width) (v : Word) :
    signedValue w v =
      (v.toNat % 2 ^ widthBits w : Nat) - if topBit w v = true then (2 : Int) ^ widthBits w else 0 := by
  cases w
  · have : (loByte v).msb = topBit .w8 v := by
      simp [BitVec.msb_eq_getLsbD_last, loByte, topBit, widthBits]
    simp only [signedValue, BitVec.toInt_eq_msb_cond, this, loByte_toNat, widthBits]
    split <;> simp
  · have : v.msb = topBit .w16 v := by
      simp [BitVec.msb_eq_getLsbD_last, topBit, widthBits]
    have := v.isLt
    simp only [signedValue, BitVec.toInt_eq_msb_cond, *, widthBits, Nat.mod_eq_of_lt]
    split <;> simp

/-- Equal signs and a result of the other sign: the signed sum does not fit the width (R183, U2). -/
theorem overflow_iff (w : Width) (a m r : Word) (c : Bool)
    (hr : r.toNat % 2 ^ widthBits w = (a.toNat + m.toNat + c.toNat) % 2 ^ widthBits w) :
    overflow w a m r = true ↔ ¬ fitsSigned w (signedValue w a + signedValue w m + c.toNat) := by
  have hc : c.toNat ≤ 1 := by cases c <;> simp
  have h1 : r.toNat % 2 ^ widthBits w < 2 ^ widthBits w := Nat.mod_lt _ (Nat.two_pow_pos _)
  have h2 : a.toNat % 2 ^ widthBits w < 2 ^ widthBits w := Nat.mod_lt _ (Nat.two_pow_pos _)
  have h3 : m.toNat % 2 ^ widthBits w < 2 ^ widthBits w := Nat.mod_lt _ (Nat.two_pow_pos _)
  have hb : ∀ x y : Bool, (x == y) = true ↔ (x = true ↔ y = true) := by decide
  have hn : ∀ x y : Bool, (x != y) = true ↔ ¬ (x = true ↔ y = true) := by decide
  simp only [overflow, fitsSigned, signedValue_eq, Bool.and_eq_true, hb, hn, topBit_iff]
  cases w <;> simp only [widthBits] at * <;> norm_num at * <;> split <;> split <;> omega

/-! ### The decimal adder -/

/-- The decimal adder on packed BCD operands: the digits of the sum, and the carry out of them. -/
theorem decimalDigits_add (k a m : Nat) (c : Bool) (ha : validBcd k a = true) (hm : validBcd k m = true) :
    let r := decimalDigits false k a m c
    validBcd k r.1 = true ∧ r.1 < 16 ^ k ∧
      bcdValue k r.1 + 10 ^ k * r.2.toNat = bcdValue k a + bcdValue k m + c.toNat := by
  induction k generalizing a m c with
  | zero => simp [decimalDigits, validBcd, bcdValue]
  | succ k ih =>
    simp only [validBcd, Bool.and_eq_true, decide_eq_true_eq] at ha hm
    have hc : c.toNat ≤ 1 := by cases c <;> simp
    obtain ⟨h1, h2, h3⟩ := ih (a / 16) (m / 16) (decimalDigit false (a % 16 + m % 16 + c.toNat)).2 ha.2 hm.2
    simp only [decimalDigits]
    generalize hr : decimalDigits false k (a / 16) (m / 16)
      (decimalDigit false (a % 16 + m % 16 + c.toNat)).2 = r at h1 h2 h3 ⊢
    have hd : (decimalDigit false (a % 16 + m % 16 + c.toNat)).1 ≤ 9 ∧
        (decimalDigit false (a % 16 + m % 16 + c.toNat)).1 +
          10 * (decimalDigit false (a % 16 + m % 16 + c.toNat)).2.toNat = a % 16 + m % 16 + c.toNat := by
      simp only [decimalDigit, Bool.false_eq_true, if_false]
      by_cases h : 9 < a % 16 + m % 16 + c.toNat
      · rw [if_pos h, decide_eq_true (by omega)]; simp only [Bool.toNat_true]; omega
      · rw [if_neg h, decide_eq_false (by omega)]; simp only [Bool.toNat_false]; omega
    generalize decimalDigit false (a % 16 + m % 16 + c.toNat) = d at *
    have e1 : (d.1 + 16 * r.1) % 16 = d.1 := by omega
    have e2 : (d.1 + 16 * r.1) / 16 = r.1 := by omega
    refine ⟨?_, ?_, ?_⟩
    · simp only [validBcd, e1, e2, h1, Bool.and_true, decide_eq_true_eq]; exact hd.1
    · rw [pow_succ]; omega
    · simp only [bcdValue, e1, e2, pow_succ]
      have := hd.2
      rw [show 10 ^ k * 10 * r.2.toNat = 10 * (10 ^ k * r.2.toNat) by ring]
      omega

/-- The same for a subtraction: the second operand is the complement, digit by digit; carry means no borrow. -/
theorem decimalDigits_sub (k a m n : Nat) (c : Bool) (ha : validBcd k a = true) (hm : validBcd k m = true)
    (hn : ∀ j, j < k → n / 16 ^ j % 16 = 15 - m / 16 ^ j % 16) :
    let r := decimalDigits true k a n c
    validBcd k r.1 = true ∧ r.1 < 16 ^ k ∧
      bcdValue k r.1 + bcdValue k m + 1 + 10 ^ k * r.2.toNat = bcdValue k a + 10 ^ k + c.toNat := by
  induction k generalizing a m n c with
  | zero => simp [decimalDigits, validBcd, bcdValue]
  | succ k ih =>
    simp only [validBcd, Bool.and_eq_true, decide_eq_true_eq] at ha hm
    have hc : c.toNat ≤ 1 := by cases c <;> simp
    have h0 := hn 0 (by omega)
    simp only [pow_zero, Nat.div_one] at h0
    obtain ⟨h1, h2, h3⟩ := ih (a / 16) (m / 16) (n / 16)
      (decimalDigit true (a % 16 + n % 16 + c.toNat)).2 ha.2 hm.2 (by
        intro j hj
        have := hn (j + 1) (by omega)
        rwa [pow_succ', ← Nat.div_div_eq_div_mul, ← Nat.div_div_eq_div_mul] at this)
    simp only [decimalDigits]
    generalize hr : decimalDigits true k (a / 16) (n / 16)
      (decimalDigit true (a % 16 + n % 16 + c.toNat)).2 = r at h1 h2 h3 ⊢
    have hd : (decimalDigit true (a % 16 + n % 16 + c.toNat)).1 ≤ 9 ∧
        (decimalDigit true (a % 16 + n % 16 + c.toNat)).1 + m % 16 + 1 +
          10 * (decimalDigit true (a % 16 + n % 16 + c.toNat)).2.toNat = a % 16 + 10 + c.toNat := by
      simp only [decimalDigit, if_true]
      by_cases h : a % 16 + n % 16 + c.toNat ≤ 15
      · rw [if_pos h, decide_eq_false (by omega)]; simp only [Bool.toNat_false]; omega
      · rw [if_neg h, decide_eq_true (by omega)]; simp only [Bool.toNat_true]; omega
    generalize decimalDigit true (a % 16 + n % 16 + c.toNat) = d at *
    have e1 : (d.1 + 16 * r.1) % 16 = d.1 := by omega
    have e2 : (d.1 + 16 * r.1) / 16 = r.1 := by omega
    refine ⟨?_, ?_, ?_⟩
    · simp only [validBcd, e1, e2, h1, Bool.and_true, decide_eq_true_eq]; exact hd.1
    · rw [pow_succ]; omega
    · simp only [bcdValue, e1, e2, pow_succ]
      have := hd.2
      rw [show 10 ^ k * 10 * r.2.toNat = 10 * (10 ^ k * r.2.toNat) by ring]
      omega

/-- The digits of a complement. -/
theorem complement_digits (w : Width) (v : Word) (j : Nat) (hj : j < widthDigits w) :
    (complement w v).toNat / 16 ^ j % 16 = 15 - v.toNat / 16 ^ j % 16 := by
  have hv := v.isLt
  have hc : (complement w v).toNat = (65535 - v.toNat) % 2 ^ widthBits w := by
    rw [complement, trunc_toNat, BitVec.toNat_not]
  rw [hc]
  cases w <;> simp only [widthDigits, widthBits] at * <;> norm_num at hj <;> interval_cases j <;>
    norm_num <;> omega

/-- The complement of the complement at a width. -/
theorem complement_complement (w : Width) (v : Word) (h : v.toNat < 2 ^ widthBits w) :
    complement w (complement w v) = v := by
  apply BitVec.eq_of_toNat_eq
  have hv := v.isLt
  have hc : ∀ v : Word, (complement w v).toNat = (65535 - v.toNat) % 2 ^ widthBits w := by
    intro v; rw [complement, trunc_toNat, BitVec.toNat_not]
  rw [hc, hc]
  cases w <;> simp only [widthBits] at * <;> omega

/-- `k` packed BCD digits spell a number below 10^k. -/
theorem bcd_lt (k a : Nat) (h : validBcd k a = true) : bcdValue k a < 10 ^ k := by
  induction k generalizing a with
  | zero => simp [bcdValue]
  | succ k ih =>
    simp only [validBcd, Bool.and_eq_true, decide_eq_true_eq] at h
    have := ih _ h.2
    rw [bcdValue, pow_succ]; omega

end Sys2Proof.Machine
end

