-- ==== Sys2Proof/Laws/Exec.lean ====
section
/-!
SUPPORT. What `exec` is, family by family, over the shared operations: the instruction's length and one
operation. A proof about a whole family starts here and never unfolds the 256 meanings.
-/

namespace Sys2Proof.Machine

/-- What a reading mnemonic does after its bytes are fetched. -/
def State.runRead (s : State) : ReadOp → Operand → State
  | .ora, o => s.ora o
  | .and, o => s.and o
  | .eor, o => s.eor o
  | .adc, o => s.adc o
  | .sbc, o => s.sbc o
  | .cmp, o => s.cmp o
  | .lda, o => s.lda o
  | .ldx, o => s.ldx o
  | .ldy, o => s.ldy o
  | .cpx, o => s.cpx o
  | .cpy, o => s.cpy o
  | .bit, .imm v => s.bitImm v
  | .bit, .mem m => s.bitMem m

/-- What a storing mnemonic does after its bytes are fetched. -/
def State.runStore (s : State) : StoreOp → MemMode → State
  | .sta, m => s.sta m
  | .stx, m => s.stx m
  | .sty, m => s.sty m
  | .stz, m => s.stz m

theorem instrLength_imm (opcode : Byte) (v : Imm) : (opcode :: immBytes v).length = 1 + (immBytes v).length :=
  Nat.add_comm _ _

/-- An instruction that only reads its operand: PC moves past it, then its operation runs. -/
theorem exec_readForm (i : Instr) (op : ReadOp) (o : Operand) (s : State) (h : readForm i = some (op, o)) :
    exec i s = .next ((s.advance (instrLength i)).runRead op o) := by
  cases i <;> simp only [readForm, Option.some.injEq, Prod.mk.injEq, reduceCtorEq] at h <;>
    obtain ⟨rfl, rfl⟩ := h <;>
    first
      | rfl
      | (simp only [instrLength, encode, instrLength_imm]; rfl)

/-- A store: PC moves past it, then its operation runs. -/
theorem exec_storeForm (i : Instr) (op : StoreOp) (m : MemMode) (s : State) (h : storeForm i = some (op, m)) :
    exec i s = .next ((s.advance (instrLength i)).runStore op m) := by
  cases i <;> simp only [storeForm, Option.some.injEq, Prod.mk.injEq, reduceCtorEq] at h <;>
    obtain ⟨rfl, rfl⟩ := h <;> rfl

/-- A read-modify-write of memory: PC moves past it, then its operation runs. -/
theorem exec_modifyForm (i : Instr) (op : ModifyOp) (m : MemMode) (s : State)
    (h : modifyForm i = some (op, m)) :
    exec i s = .next ((s.advance (instrLength i)).rmw m (modifyOp s.acc op)) := by
  cases i <;> simp only [modifyForm, Option.some.injEq, Prod.mk.injEq, reduceCtorEq] at h <;>
    obtain ⟨rfl, rfl⟩ := h <;> rfl

/-- An operation on the accumulator (TSB and TRB have no such form). -/
theorem exec_accForm (i : Instr) (op : ModifyOp) (s : State) (h : accForm i = some op) :
    exec i s = .next ((s.advance 1).rmwAcc (modifyOp s.acc op)) := by
  cases i <;> simp only [accForm, Option.some.injEq, reduceCtorEq] at h <;> subst h <;> rfl

/-- TSB and TRB work on memory only. -/
theorem accForm_ne (i : Instr) : accForm i ≠ some .tsb ∧ accForm i ≠ some .trb := by
  cases i <;> simp [accForm]

end Sys2Proof.Machine
end

