-- ==== Sys2Proof/Laws/Memory.lean ====
section
/-!
SUPPORT. The laws of memory: a read after a write, in every list of cells; every write keeps the canonical form
and the bound of the address space; equal reads mean equal canonical memories.
-/

namespace Sys2Proof.Machine

theorem Memory.read_nil (a : Nat) : Memory.read [] a = Memory.unlisted := rfl

theorem Memory.read_cons (k : Nat) (v : Byte) (rest : Memory) (a : Nat) :
    Memory.read ((k, v) :: rest) a =
      if k = a then v else if a < k then Memory.unlisted else Memory.read rest a := rfl

/-- Cells at or below an address do not matter to a read above it. -/
theorem Memory.read_dropWhile (m : Memory) (a b : Nat) (h : a < b) :
    Memory.read (m.dropWhile fun cell => decide (cell.1 ≤ a)) b = Memory.read m b := by
  induction m with
  | nil => rfl
  | cons cell rest ih =>
    obtain ⟨k, v⟩ := cell
    by_cases hk : k ≤ a
    · rw [List.dropWhile_cons_of_pos (by simpa using hk), ih, Memory.read_cons,
        if_neg (by omega), if_neg (by omega)]
    · rw [List.dropWhile_cons_of_neg (by simpa using hk)]

/-- After the cells at or below an address are dropped it reads as unlisted. -/
theorem Memory.read_dropWhile_self (m : Memory) (a : Nat) :
    Memory.read (m.dropWhile fun cell => decide (cell.1 ≤ a)) a = Memory.unlisted := by
  induction m with
  | nil => rfl
  | cons cell rest ih =>
    obtain ⟨k, v⟩ := cell
    by_cases hk : k ≤ a
    · rw [List.dropWhile_cons_of_pos (by simpa using hk), ih]
    · rw [List.dropWhile_cons_of_neg (by simpa using hk), Memory.read_cons, if_neg (by omega),
        if_pos (by omega)]

/-- A read after a write, in every list of cells: the written byte at its address, the old one elsewhere. -/
theorem Memory.read_write (m : Memory) (a b : Nat) (v : Byte) :
    Memory.read (m.write a v) b = if b = a then v else Memory.read m b := by
  induction m with
  | nil =>
    simp only [Memory.write]
    by_cases hv : v = Memory.unlisted <;> by_cases hb : b = a <;>
      simp [hv, hb, Ne.symm, Memory.read]
  | cons cell rest ih =>
    obtain ⟨k, w⟩ := cell
    simp only [Memory.write]
    by_cases hka : k < a
    · rw [if_pos hka, Memory.read_cons, ih, Memory.read_cons]
      by_cases hb : b = a
      · subst hb
        rw [if_neg (by omega), if_neg (by omega), if_pos rfl, if_pos rfl]
      · simp [hb]
    · rw [if_neg hka]
      by_cases hk : k = a
      · subst hk
        simp only [if_true]
        by_cases hv : v = Memory.unlisted
        · rw [if_pos hv]
          by_cases hb : b = k
          · subst hb; rw [if_pos rfl, hv, Memory.read_dropWhile_self]
          · rw [if_neg hb, Memory.read_cons, if_neg (Ne.symm hb)]
            by_cases hlt : b < k
            · rw [if_pos hlt]
              clear ih hka
              induction rest with
              | nil => rfl
              | cons c2 rest2 ih2 =>
                obtain ⟨k2, w2⟩ := c2
                by_cases h2 : k2 ≤ k
                · rw [List.dropWhile_cons_of_pos (by simpa using h2), ih2]
                · rw [List.dropWhile_cons_of_neg (by simpa using h2), Memory.read_cons,
                    if_neg (by omega), if_pos (by omega)]
            · rw [if_neg hlt, Memory.read_dropWhile _ _ _ (by omega)]
        · rw [if_neg hv, Memory.read_cons, Memory.read_cons]
          by_cases hb : b = k
          · subst hb; simp
          · rw [if_neg (Ne.symm hb), if_neg hb, if_neg (Ne.symm hb)]
            by_cases hlt : b < k
            · rw [if_pos hlt, if_pos hlt]
            · rw [if_neg hlt, if_neg hlt, Memory.read_dropWhile _ _ _ (by omega)]
      · rw [if_neg hk]
        by_cases hv : v = Memory.unlisted
        · rw [if_pos hv, Memory.read_cons]
          by_cases hb : b = a
          · subst hb; rw [if_neg hk, if_pos (by omega), if_pos rfl, hv]
          · rw [if_neg hb]
        · rw [if_neg hv, Memory.read_cons, Memory.read_cons]
          by_cases hb : b = a
          · subst hb; simp
          · rw [if_neg (Ne.symm hb), if_neg hb]
            by_cases hlt : b < a
            · rw [if_pos hlt, if_neg (by omega), if_pos (by omega)]
            · rw [if_neg hlt]

theorem Memory.read_write_self (m : Memory) (a : Nat) (v : Byte) : Memory.read (m.write a v) a = v := by
  rw [Memory.read_write, if_pos rfl]

theorem Memory.read_write_other (m : Memory) (a b : Nat) (v : Byte) (h : b ≠ a) :
    Memory.read (m.write a v) b = Memory.read m b := by
  rw [Memory.read_write, if_neg h]

theorem Memory.wfFrom_cons (low k : Nat) (v : Byte) (rest : Memory) :
    Memory.wfFrom low ((k, v) :: rest) = true ↔
      low ≤ k ∧ v ≠ Memory.unlisted ∧ Memory.wfFrom (k + 1) rest = true := by
  simp only [Memory.wfFrom, Bool.and_eq_true, decide_eq_true_eq, and_assoc]

theorem Memory.wfFrom_le (m : Memory) (low low' : Nat) (hle : low' ≤ low)
    (h : Memory.wfFrom low m = true) : Memory.wfFrom low' m = true := by
  cases m with
  | nil => rfl
  | cons cell rest =>
    obtain ⟨k, v⟩ := cell
    rw [Memory.wfFrom_cons] at h ⊢
    exact ⟨by omega, h.2⟩

/-- In a canonical list no cell behind an address lies at or below it. -/
theorem Memory.dropWhile_wfFrom (m : Memory) (a : Nat) (h : Memory.wfFrom (a + 1) m = true) :
    (m.dropWhile fun cell => decide (cell.1 ≤ a)) = m := by
  cases m with
  | nil => rfl
  | cons cell rest =>
    obtain ⟨k, v⟩ := cell
    rw [Memory.wfFrom_cons] at h
    exact List.dropWhile_cons_of_neg (by simpa using h.1)

theorem Memory.wfFrom_write (m : Memory) (low a : Nat) (v : Byte) (ha : low ≤ a)
    (h : Memory.wfFrom low m = true) : Memory.wfFrom low (m.write a v) = true := by
  induction m generalizing low with
  | nil =>
    simp only [Memory.write]
    split
    · rfl
    · rw [Memory.wfFrom_cons]; exact ⟨ha, by assumption, rfl⟩
  | cons cell rest ih =>
    obtain ⟨k, w⟩ := cell
    rw [Memory.wfFrom_cons] at h
    simp only [Memory.write]
    split
    · rw [Memory.wfFrom_cons]; exact ⟨h.1, h.2.1, ih (k + 1) (by omega) h.2.2⟩
    · by_cases hk : k = a
      · subst hk
        rw [if_pos rfl, Memory.dropWhile_wfFrom _ _ h.2.2]
        split
        · exact Memory.wfFrom_le _ _ _ (by omega) h.2.2
        · rw [Memory.wfFrom_cons]; exact ⟨by omega, by assumption, h.2.2⟩
      · rw [if_neg hk]
        split
        · rw [Memory.wfFrom_cons]; exact h
        · rw [Memory.wfFrom_cons, Memory.wfFrom_cons]
          exact ⟨by omega, by assumption, by omega, h.2⟩

/-- A write keeps the canonical form. -/
theorem Memory.wf_write (m : Memory) (a : Nat) (v : Byte) (h : m.wf = true) : (m.write a v).wf = true :=
  Memory.wfFrom_write m 0 a v (Nat.zero_le _) h

/-- A write below the bound keeps every listed address below it. -/
theorem Memory.below_write (bound : Nat) (m : Memory) (a : Nat) (v : Byte) (ha : a < bound)
    (h : m.below bound = true) : (m.write a v).below bound = true := by
  simp only [Memory.below, List.all_eq_true, decide_eq_true_eq] at h ⊢
  induction m with
  | nil =>
    simp only [Memory.write]
    split <;> simp [ha]
  | cons cell rest ih =>
    obtain ⟨k, w⟩ := cell
    have hk : k < bound := h (k, w) (by simp)
    have hrest : ∀ x ∈ rest, x.1 < bound := fun x hx => h x (by simp [hx])
    simp only [Memory.write]
    split
    · intro x hx
      rcases List.mem_cons.mp hx with rfl | hx
      · exact hk
      · exact ih hrest x hx
    · have htail : ∀ x ∈ (if k = a then rest.dropWhile (fun cell => decide (cell.1 ≤ a))
          else (k, w) :: rest), x.1 < bound := by
        split
        · intro x hx; exact hrest x ((List.dropWhile_sublist _).subset hx)
        · exact h
      split
      · exact htail
      · intro x hx
        rcases List.mem_cons.mp hx with rfl | hx
        · exact ha
        · exact htail x hx

/-- The memory after reset is canonical and inside every address space. -/
theorem Memory.reset_wf (bound : Nat) : State.reset.mem.wf = true ∧ State.reset.mem.below bound = true :=
  ⟨rfl, rfl⟩

theorem Memory.read_below_low (m : Memory) (low a : Nat) (ha : a < low) (h : Memory.wfFrom low m = true) :
    m.read a = Memory.unlisted := by
  cases m with
  | nil => rfl
  | cons cell rest =>
    obtain ⟨k, v⟩ := cell
    rw [Memory.wfFrom_cons] at h
    rw [Memory.read_cons, if_neg (by omega), if_pos (by omega)]

theorem Memory.ext_from (m n : Memory) (low : Nat) (hm : Memory.wfFrom low m = true)
    (hn : Memory.wfFrom low n = true) (h : ∀ a, low ≤ a → m.read a = n.read a) : m = n := by
  induction m generalizing n low with
  | nil =>
    cases n with
    | nil => rfl
    | cons cell rest =>
      obtain ⟨k, v⟩ := cell
      rw [Memory.wfFrom_cons] at hn
      have := h k hn.1
      rw [Memory.read_cons, if_pos rfl] at this
      exact absurd this.symm hn.2.1
  | cons cell rest ih =>
    obtain ⟨k, v⟩ := cell
    rw [Memory.wfFrom_cons] at hm
    cases n with
    | nil =>
      have := h k hm.1
      rw [Memory.read_cons, if_pos rfl] at this
      exact absurd this hm.2.1
    | cons cell2 rest2 =>
      obtain ⟨k2, v2⟩ := cell2
      rw [Memory.wfFrom_cons] at hn
      have e1 := h k hm.1
      have e2 := h k2 hn.1
      simp only [Memory.read_cons, if_true] at e1 e2
      have hk : k = k2 := by
        rcases Nat.lt_trichotomy k k2 with hlt | heq | hgt
        · rw [if_neg (by omega), if_pos hlt] at e1; exact absurd e1 hm.2.1
        · exact heq
        · rw [if_neg (by omega), if_pos hgt] at e2; exact absurd e2.symm hn.2.1
      subst hk
      simp only [if_true] at e1
      rw [e1, ih rest2 (k + 1) hm.2.2 hn.2.2]
      intro a ha
      have := h a (by omega)
      rwa [Memory.read_cons, Memory.read_cons, if_neg (by omega), if_neg (by omega), if_neg (by omega),
        if_neg (by omega)] at this

/-- Canonical memories that read the same are the same list. -/
theorem Memory.ext_read (m n : Memory) (hm : m.wf = true) (hn : n.wf = true)
    (h : ∀ a, m.read a = n.read a) : m = n :=
  Memory.ext_from m n 0 hm hn fun a _ => h a

/-! ### `Memory.put` and `Memory.setAll` -/

/-- `Memory.put` reads as a write where the address is not owned, and as nothing where it is. -/
theorem Memory.read_put (owned : List AddressRange) (m : Memory) (a b : Nat) (v : Byte) :
    Memory.read (m.put owned a v) b = if b = a ∧ inRanges owned a = false then v else m.read b := by
  simp only [Memory.put]
  cases h : inRanges owned a
  · simp [Memory.read_write]
  · simp

theorem Memory.read_put_self (owned : List AddressRange) (m : Memory) (a : Nat) (v : Byte)
    (h : inRanges owned a = false) : Memory.read (m.put owned a v) a = v := by
  rw [Memory.read_put, if_pos ⟨rfl, h⟩]

theorem Memory.read_put_other (owned : List AddressRange) (m : Memory) (a b : Nat) (v : Byte) (h : b ≠ a) :
    Memory.read (m.put owned a v) b = m.read b := by
  rw [Memory.read_put, if_neg fun k => h k.1]

/-- A byte the platform owns is not changed by a write of the processor, wherever it goes. -/
theorem Memory.read_put_owned (owned : List AddressRange) (m : Memory) (a b : Nat) (v : Byte)
    (h : inRanges owned b ≠ false) : Memory.read (m.put owned a v) b = m.read b := by
  rw [Memory.read_put, if_neg]
  rintro ⟨rfl, k⟩
  exact h k

theorem Memory.wf_put (owned : List AddressRange) (m : Memory) (a : Nat) (v : Byte) (h : m.wf = true) :
    (m.put owned a v).wf = true := by
  simp only [Memory.put]
  split
  · exact h
  · exact Memory.wf_write m a v h

theorem Memory.below_put (bound : Nat) (owned : List AddressRange) (m : Memory) (a : Nat) (v : Byte)
    (ha : a < bound) (h : m.below bound = true) : (m.put owned a v).below bound = true := by
  simp only [Memory.put]
  split
  · exact h
  · exact Memory.below_write bound m a v ha h

/-- The bytes the platform sets keep the canonical form and the bound. -/
theorem Memory.setAll_keeps (bound : Nat) (l : List Host.Cell) (m : Memory) (h : m.wf = true)
    (hb : m.below bound = true) : (m.setAll bound l).wf = true ∧ (m.setAll bound l).below bound = true := by
  induction l generalizing m with
  | nil => exact ⟨h, hb⟩
  | cons cell rest ih =>
    rw [Memory.setAll]
    split
    · exact ih _ (Memory.wf_write _ _ _ h) (Memory.below_write _ _ _ _ ‹_› hb)
    · exact ih _ h hb

/-- The last cell set for an address inside the bound is what is read there; no other address changes. -/
theorem Memory.read_setAll (bound : Nat) (l : List Host.Cell) (m : Memory) (a : Nat) :
    (m.setAll bound l).read a =
      if a < bound then (l.reverse.lookup a).getD (m.read a) else m.read a := by
  induction l generalizing m with
  | nil => simp [Memory.setAll]
  | cons cell rest ih =>
    rw [Memory.setAll, ih, List.reverse_cons, List.lookup_append]
    by_cases ha : a < bound
    · simp only [ha, if_true]
      cases rest.reverse.lookup a with
      | some v => rfl
      | none =>
        by_cases hc : a = cell.1
        · subst hc; simp [ha, Memory.read_write_self, List.lookup]
        · have : (a == cell.1) = false := by simpa using hc
          simp only [List.lookup, this, Option.or, Option.getD]
          split
          · exact Memory.read_write_other _ _ _ _ hc
          · rfl
    · simp only [ha, if_false]
      split
      · exact Memory.read_write_other _ _ _ _ (by omega)
      · rfl

end Sys2Proof.Machine
end

