-- ==== Sys2Proof/Laws/State.lean ====
section
/-!
SUPPORT. One lemma for each field of State and each update of it: what the field is afterwards. All hold by
definition; no later proof unfolds a record update.
-/

namespace Sys2Proof.Machine

/-! ### `State.note` -/

@[simp] theorem State.note_cfg (s : State) (l : List BusAccess) : (s.note l).cfg = s.cfg := rfl
@[simp] theorem State.note_c (s : State) (l : List BusAccess) : (s.note l).c = s.c := rfl
@[simp] theorem State.note_x (s : State) (l : List BusAccess) : (s.note l).x = s.x := rfl
@[simp] theorem State.note_y (s : State) (l : List BusAccess) : (s.note l).y = s.y := rfl
@[simp] theorem State.note_sp (s : State) (l : List BusAccess) : (s.note l).sp = s.sp := rfl
@[simp] theorem State.note_d (s : State) (l : List BusAccess) : (s.note l).d = s.d := rfl
@[simp] theorem State.note_pc (s : State) (l : List BusAccess) : (s.note l).pc = s.pc := rfl
@[simp] theorem State.note_dbr (s : State) (l : List BusAccess) : (s.note l).dbr = s.dbr := rfl
@[simp] theorem State.note_pbr (s : State) (l : List BusAccess) : (s.note l).pbr = s.pbr := rfl
@[simp] theorem State.note_p (s : State) (l : List BusAccess) : (s.note l).p = s.p := rfl
@[simp] theorem State.note_e (s : State) (l : List BusAccess) : (s.note l).e = s.e := rfl
@[simp] theorem State.note_waiting (s : State) (l : List BusAccess) : (s.note l).waiting = s.waiting := rfl
@[simp] theorem State.note_stopped (s : State) (l : List BusAccess) : (s.note l).stopped = s.stopped := rfl
@[simp] theorem State.note_nmiPending (s : State) (l : List BusAccess) :
    (s.note l).nmiPending = s.nmiPending := rfl
@[simp] theorem State.note_abortPending (s : State) (l : List BusAccess) :
    (s.note l).abortPending = s.abortPending := rfl
@[simp] theorem State.note_resLow (s : State) (l : List BusAccess) : (s.note l).resLow = s.resLow := rfl
@[simp] theorem State.note_irqLow (s : State) (l : List BusAccess) : (s.note l).irqLow = s.irqLow := rfl
@[simp] theorem State.note_rdyForcedHigh (s : State) (l : List BusAccess) :
    (s.note l).rdyForcedHigh = s.rdyForcedHigh := rfl
@[simp] theorem State.note_inReset (s : State) (l : List BusAccess) : (s.note l).inReset = s.inReset := rfl
@[simp] theorem State.note_mem (s : State) (l : List BusAccess) : (s.note l).mem = s.mem := rfl
@[simp] theorem State.note_bus (s : State) (l : List BusAccess) : (s.note l).bus = s.bus ++ l := rfl
@[simp] theorem State.note_inputs (s : State) (l : List BusAccess) : (s.note l).inputs = s.inputs := rfl
@[simp] theorem State.note_owned (s : State) (l : List BusAccess) : (s.note l).owned = s.owned := rfl
@[simp] theorem State.note_answers (s : State) (l : List BusAccess) : (s.note l).answers = s.answers := rfl
@[simp] theorem State.note_abortRanges (s : State) (l : List BusAccess) :
    (s.note l).abortRanges = s.abortRanges := rfl
@[simp] theorem State.note_draws (s : State) (l : List BusAccess) : (s.note l).draws = s.draws := rfl

/-! ### `State.write8` -/

@[simp] theorem State.write8_cfg (s : State) (k : BusKind) (lock : Bool) (ea : Addr) (b : Byte) :
    (s.write8 k lock ea b).cfg = s.cfg := rfl
@[simp] theorem State.write8_c (s : State) (k : BusKind) (lock : Bool) (ea : Addr) (b : Byte) :
    (s.write8 k lock ea b).c = s.c := rfl
@[simp] theorem State.write8_x (s : State) (k : BusKind) (lock : Bool) (ea : Addr) (b : Byte) :
    (s.write8 k lock ea b).x = s.x := rfl
@[simp] theorem State.write8_y (s : State) (k : BusKind) (lock : Bool) (ea : Addr) (b : Byte) :
    (s.write8 k lock ea b).y = s.y := rfl
@[simp] theorem State.write8_sp (s : State) (k : BusKind) (lock : Bool) (ea : Addr) (b : Byte) :
    (s.write8 k lock ea b).sp = s.sp := rfl
@[simp] theorem State.write8_d (s : State) (k : BusKind) (lock : Bool) (ea : Addr) (b : Byte) :
    (s.write8 k lock ea b).d = s.d := rfl
@[simp] theorem State.write8_pc (s : State) (k : BusKind) (lock : Bool) (ea : Addr) (b : Byte) :
    (s.write8 k lock ea b).pc = s.pc := rfl
@[simp] theorem State.write8_dbr (s : State) (k : BusKind) (lock : Bool) (ea : Addr) (b : Byte) :
    (s.write8 k lock ea b).dbr = s.dbr := rfl
@[simp] theorem State.write8_pbr (s : State) (k : BusKind) (lock : Bool) (ea : Addr) (b : Byte) :
    (s.write8 k lock ea b).pbr = s.pbr := rfl
@[simp] theorem State.write8_p (s : State) (k : BusKind) (lock : Bool) (ea : Addr) (b : Byte) :
    (s.write8 k lock ea b).p = s.p := rfl
@[simp] theorem State.write8_e (s : State) (k : BusKind) (lock : Bool) (ea : Addr) (b : Byte) :
    (s.write8 k lock ea b).e = s.e := rfl
@[simp] theorem State.write8_waiting (s : State) (k : BusKind) (lock : Bool) (ea : Addr) (b : Byte) :
    (s.write8 k lock ea b).waiting = s.waiting := rfl
@[simp] theorem State.write8_stopped (s : State) (k : BusKind) (lock : Bool) (ea : Addr) (b : Byte) :
    (s.write8 k lock ea b).stopped = s.stopped := rfl
@[simp] theorem State.write8_nmiPending (s : State) (k : BusKind) (lock : Bool) (ea : Addr) (b : Byte) :
    (s.write8 k lock ea b).nmiPending = s.nmiPending := rfl
@[simp] theorem State.write8_abortPending (s : State) (k : BusKind) (lock : Bool) (ea : Addr) (b : Byte) :
    (s.write8 k lock ea b).abortPending = s.abortPending := rfl
@[simp] theorem State.write8_resLow (s : State) (k : BusKind) (lock : Bool) (ea : Addr) (b : Byte) :
    (s.write8 k lock ea b).resLow = s.resLow := rfl
@[simp] theorem State.write8_irqLow (s : State) (k : BusKind) (lock : Bool) (ea : Addr) (b : Byte) :
    (s.write8 k lock ea b).irqLow = s.irqLow := rfl
@[simp] theorem State.write8_rdyForcedHigh (s : State) (k : BusKind) (lock : Bool) (ea : Addr) (b : Byte) :
    (s.write8 k lock ea b).rdyForcedHigh = s.rdyForcedHigh := rfl
@[simp] theorem State.write8_inReset (s : State) (k : BusKind) (lock : Bool) (ea : Addr) (b : Byte) :
    (s.write8 k lock ea b).inReset = s.inReset := rfl
@[simp] theorem State.write8_mem (s : State) (k : BusKind) (lock : Bool) (ea : Addr) (b : Byte) :
    (s.write8 k lock ea b).mem = s.mem.put s.owned (phys s.cfg.variant ea) b := rfl
@[simp] theorem State.write8_bus (s : State) (k : BusKind) (lock : Bool) (ea : Addr) (b : Byte) :
    (s.write8 k lock ea b).bus = s.bus ++ [⟨k, phys s.cfg.variant ea, b, lock⟩] := rfl
@[simp] theorem State.write8_inputs (s : State) (k : BusKind) (lock : Bool) (ea : Addr) (b : Byte) :
    (s.write8 k lock ea b).inputs = s.inputs := rfl
@[simp] theorem State.write8_owned (s : State) (k : BusKind) (lock : Bool) (ea : Addr) (b : Byte) :
    (s.write8 k lock ea b).owned = s.owned := rfl
@[simp] theorem State.write8_answers (s : State) (k : BusKind) (lock : Bool) (ea : Addr) (b : Byte) :
    (s.write8 k lock ea b).answers = s.answers := rfl
@[simp] theorem State.write8_abortRanges (s : State) (k : BusKind) (lock : Bool) (ea : Addr) (b : Byte) :
    (s.write8 k lock ea b).abortRanges = s.abortRanges := rfl
@[simp] theorem State.write8_draws (s : State) (k : BusKind) (lock : Bool) (ea : Addr) (b : Byte) :
    (s.write8 k lock ea b).draws = s.draws := rfl

/-! ### `State.advance` -/

@[simp] theorem State.advance_cfg (s : State) (n : Nat) : (s.advance n).cfg = s.cfg := rfl
@[simp] theorem State.advance_c (s : State) (n : Nat) : (s.advance n).c = s.c := rfl
@[simp] theorem State.advance_x (s : State) (n : Nat) : (s.advance n).x = s.x := rfl
@[simp] theorem State.advance_y (s : State) (n : Nat) : (s.advance n).y = s.y := rfl
@[simp] theorem State.advance_sp (s : State) (n : Nat) : (s.advance n).sp = s.sp := rfl
@[simp] theorem State.advance_d (s : State) (n : Nat) : (s.advance n).d = s.d := rfl
@[simp] theorem State.advance_pc (s : State) (n : Nat) : (s.advance n).pc = s.pc + BitVec.ofNat 16 n := rfl
@[simp] theorem State.advance_dbr (s : State) (n : Nat) : (s.advance n).dbr = s.dbr := rfl
@[simp] theorem State.advance_pbr (s : State) (n : Nat) : (s.advance n).pbr = s.pbr := rfl
@[simp] theorem State.advance_p (s : State) (n : Nat) : (s.advance n).p = s.p := rfl
@[simp] theorem State.advance_e (s : State) (n : Nat) : (s.advance n).e = s.e := rfl
@[simp] theorem State.advance_waiting (s : State) (n : Nat) : (s.advance n).waiting = s.waiting := rfl
@[simp] theorem State.advance_stopped (s : State) (n : Nat) : (s.advance n).stopped = s.stopped := rfl
@[simp] theorem State.advance_nmiPending (s : State) (n : Nat) : (s.advance n).nmiPending = s.nmiPending := rfl
@[simp] theorem State.advance_abortPending (s : State) (n : Nat) :
    (s.advance n).abortPending = s.abortPending := rfl
@[simp] theorem State.advance_resLow (s : State) (n : Nat) : (s.advance n).resLow = s.resLow := rfl
@[simp] theorem State.advance_irqLow (s : State) (n : Nat) : (s.advance n).irqLow = s.irqLow := rfl
@[simp] theorem State.advance_rdyForcedHigh (s : State) (n : Nat) :
    (s.advance n).rdyForcedHigh = s.rdyForcedHigh := rfl
@[simp] theorem State.advance_inReset (s : State) (n : Nat) : (s.advance n).inReset = s.inReset := rfl
@[simp] theorem State.advance_mem (s : State) (n : Nat) : (s.advance n).mem = s.mem := rfl
@[simp] theorem State.advance_bus (s : State) (n : Nat) : (s.advance n).bus = s.bus := rfl
@[simp] theorem State.advance_inputs (s : State) (n : Nat) : (s.advance n).inputs = s.inputs := rfl
@[simp] theorem State.advance_owned (s : State) (n : Nat) : (s.advance n).owned = s.owned := rfl
@[simp] theorem State.advance_answers (s : State) (n : Nat) : (s.advance n).answers = s.answers := rfl
@[simp] theorem State.advance_abortRanges (s : State) (n : Nat) :
    (s.advance n).abortRanges = s.abortRanges := rfl
@[simp] theorem State.advance_draws (s : State) (n : Nat) : (s.advance n).draws = s.draws := rfl

/-! ### `State.setPc` -/

@[simp] theorem State.setPc_cfg (s : State) (t : Word) : (s.setPc t).cfg = s.cfg := rfl
@[simp] theorem State.setPc_c (s : State) (t : Word) : (s.setPc t).c = s.c := rfl
@[simp] theorem State.setPc_x (s : State) (t : Word) : (s.setPc t).x = s.x := rfl
@[simp] theorem State.setPc_y (s : State) (t : Word) : (s.setPc t).y = s.y := rfl
@[simp] theorem State.setPc_sp (s : State) (t : Word) : (s.setPc t).sp = s.sp := rfl
@[simp] theorem State.setPc_d (s : State) (t : Word) : (s.setPc t).d = s.d := rfl
@[simp] theorem State.setPc_pc (s : State) (t : Word) : (s.setPc t).pc = t := rfl
@[simp] theorem State.setPc_dbr (s : State) (t : Word) : (s.setPc t).dbr = s.dbr := rfl
@[simp] theorem State.setPc_pbr (s : State) (t : Word) : (s.setPc t).pbr = s.pbr := rfl
@[simp] theorem State.setPc_p (s : State) (t : Word) : (s.setPc t).p = s.p := rfl
@[simp] theorem State.setPc_e (s : State) (t : Word) : (s.setPc t).e = s.e := rfl
@[simp] theorem State.setPc_waiting (s : State) (t : Word) : (s.setPc t).waiting = s.waiting := rfl
@[simp] theorem State.setPc_stopped (s : State) (t : Word) : (s.setPc t).stopped = s.stopped := rfl
@[simp] theorem State.setPc_nmiPending (s : State) (t : Word) : (s.setPc t).nmiPending = s.nmiPending := rfl
@[simp] theorem State.setPc_abortPending (s : State) (t : Word) :
    (s.setPc t).abortPending = s.abortPending := rfl
@[simp] theorem State.setPc_resLow (s : State) (t : Word) : (s.setPc t).resLow = s.resLow := rfl
@[simp] theorem State.setPc_irqLow (s : State) (t : Word) : (s.setPc t).irqLow = s.irqLow := rfl
@[simp] theorem State.setPc_rdyForcedHigh (s : State) (t : Word) :
    (s.setPc t).rdyForcedHigh = s.rdyForcedHigh := rfl
@[simp] theorem State.setPc_inReset (s : State) (t : Word) : (s.setPc t).inReset = s.inReset := rfl
@[simp] theorem State.setPc_mem (s : State) (t : Word) : (s.setPc t).mem = s.mem := rfl
@[simp] theorem State.setPc_bus (s : State) (t : Word) : (s.setPc t).bus = s.bus := rfl
@[simp] theorem State.setPc_inputs (s : State) (t : Word) : (s.setPc t).inputs = s.inputs := rfl
@[simp] theorem State.setPc_owned (s : State) (t : Word) : (s.setPc t).owned = s.owned := rfl
@[simp] theorem State.setPc_answers (s : State) (t : Word) : (s.setPc t).answers = s.answers := rfl
@[simp] theorem State.setPc_abortRanges (s : State) (t : Word) : (s.setPc t).abortRanges = s.abortRanges := rfl
@[simp] theorem State.setPc_draws (s : State) (t : Word) : (s.setPc t).draws = s.draws := rfl

/-! ### `State.setAcc` -/

@[simp] theorem State.setAcc_cfg (s : State) (w : Width) (v : Word) : (s.setAcc w v).cfg = s.cfg := rfl
@[simp] theorem State.setAcc_c (s : State) (w : Width) (v : Word) : (s.setAcc w v).c = insertAcc w s.c v := rfl
@[simp] theorem State.setAcc_x (s : State) (w : Width) (v : Word) : (s.setAcc w v).x = s.x := rfl
@[simp] theorem State.setAcc_y (s : State) (w : Width) (v : Word) : (s.setAcc w v).y = s.y := rfl
@[simp] theorem State.setAcc_sp (s : State) (w : Width) (v : Word) : (s.setAcc w v).sp = s.sp := rfl
@[simp] theorem State.setAcc_d (s : State) (w : Width) (v : Word) : (s.setAcc w v).d = s.d := rfl
@[simp] theorem State.setAcc_pc (s : State) (w : Width) (v : Word) : (s.setAcc w v).pc = s.pc := rfl
@[simp] theorem State.setAcc_dbr (s : State) (w : Width) (v : Word) : (s.setAcc w v).dbr = s.dbr := rfl
@[simp] theorem State.setAcc_pbr (s : State) (w : Width) (v : Word) : (s.setAcc w v).pbr = s.pbr := rfl
@[simp] theorem State.setAcc_p (s : State) (w : Width) (v : Word) : (s.setAcc w v).p = s.p := rfl
@[simp] theorem State.setAcc_e (s : State) (w : Width) (v : Word) : (s.setAcc w v).e = s.e := rfl
@[simp] theorem State.setAcc_waiting (s : State) (w : Width) (v : Word) :
    (s.setAcc w v).waiting = s.waiting := rfl
@[simp] theorem State.setAcc_stopped (s : State) (w : Width) (v : Word) :
    (s.setAcc w v).stopped = s.stopped := rfl
@[simp] theorem State.setAcc_nmiPending (s : State) (w : Width) (v : Word) :
    (s.setAcc w v).nmiPending = s.nmiPending := rfl
@[simp] theorem State.setAcc_abortPending (s : State) (w : Width) (v : Word) :
    (s.setAcc w v).abortPending = s.abortPending := rfl
@[simp] theorem State.setAcc_resLow (s : State) (w : Width) (v : Word) :
    (s.setAcc w v).resLow = s.resLow := rfl
@[simp] theorem State.setAcc_irqLow (s : State) (w : Width) (v : Word) :
    (s.setAcc w v).irqLow = s.irqLow := rfl
@[simp] theorem State.setAcc_rdyForcedHigh (s : State) (w : Width) (v : Word) :
    (s.setAcc w v).rdyForcedHigh = s.rdyForcedHigh := rfl
@[simp] theorem State.setAcc_inReset (s : State) (w : Width) (v : Word) :
    (s.setAcc w v).inReset = s.inReset := rfl
@[simp] theorem State.setAcc_mem (s : State) (w : Width) (v : Word) : (s.setAcc w v).mem = s.mem := rfl
@[simp] theorem State.setAcc_bus (s : State) (w : Width) (v : Word) : (s.setAcc w v).bus = s.bus := rfl
@[simp] theorem State.setAcc_inputs (s : State) (w : Width) (v : Word) :
    (s.setAcc w v).inputs = s.inputs := rfl
@[simp] theorem State.setAcc_owned (s : State) (w : Width) (v : Word) : (s.setAcc w v).owned = s.owned := rfl
@[simp] theorem State.setAcc_answers (s : State) (w : Width) (v : Word) :
    (s.setAcc w v).answers = s.answers := rfl
@[simp] theorem State.setAcc_abortRanges (s : State) (w : Width) (v : Word) :
    (s.setAcc w v).abortRanges = s.abortRanges := rfl
@[simp] theorem State.setAcc_draws (s : State) (w : Width) (v : Word) : (s.setAcc w v).draws = s.draws := rfl

/-! ### `State.setX` -/

@[simp] theorem State.setX_cfg (s : State) (w : Width) (v : Word) : (s.setX w v).cfg = s.cfg := rfl
@[simp] theorem State.setX_c (s : State) (w : Width) (v : Word) : (s.setX w v).c = s.c := rfl
@[simp] theorem State.setX_x (s : State) (w : Width) (v : Word) : (s.setX w v).x = trunc w v := rfl
@[simp] theorem State.setX_y (s : State) (w : Width) (v : Word) : (s.setX w v).y = s.y := rfl
@[simp] theorem State.setX_sp (s : State) (w : Width) (v : Word) : (s.setX w v).sp = s.sp := rfl
@[simp] theorem State.setX_d (s : State) (w : Width) (v : Word) : (s.setX w v).d = s.d := rfl
@[simp] theorem State.setX_pc (s : State) (w : Width) (v : Word) : (s.setX w v).pc = s.pc := rfl
@[simp] theorem State.setX_dbr (s : State) (w : Width) (v : Word) : (s.setX w v).dbr = s.dbr := rfl
@[simp] theorem State.setX_pbr (s : State) (w : Width) (v : Word) : (s.setX w v).pbr = s.pbr := rfl
@[simp] theorem State.setX_p (s : State) (w : Width) (v : Word) : (s.setX w v).p = s.p := rfl
@[simp] theorem State.setX_e (s : State) (w : Width) (v : Word) : (s.setX w v).e = s.e := rfl
@[simp] theorem State.setX_waiting (s : State) (w : Width) (v : Word) : (s.setX w v).waiting = s.waiting := rfl
@[simp] theorem State.setX_stopped (s : State) (w : Width) (v : Word) : (s.setX w v).stopped = s.stopped := rfl
@[simp] theorem State.setX_nmiPending (s : State) (w : Width) (v : Word) :
    (s.setX w v).nmiPending = s.nmiPending := rfl
@[simp] theorem State.setX_abortPending (s : State) (w : Width) (v : Word) :
    (s.setX w v).abortPending = s.abortPending := rfl
@[simp] theorem State.setX_resLow (s : State) (w : Width) (v : Word) : (s.setX w v).resLow = s.resLow := rfl
@[simp] theorem State.setX_irqLow (s : State) (w : Width) (v : Word) : (s.setX w v).irqLow = s.irqLow := rfl
@[simp] theorem State.setX_rdyForcedHigh (s : State) (w : Width) (v : Word) :
    (s.setX w v).rdyForcedHigh = s.rdyForcedHigh := rfl
@[simp] theorem State.setX_inReset (s : State) (w : Width) (v : Word) : (s.setX w v).inReset = s.inReset := rfl
@[simp] theorem State.setX_mem (s : State) (w : Width) (v : Word) : (s.setX w v).mem = s.mem := rfl
@[simp] theorem State.setX_bus (s : State) (w : Width) (v : Word) : (s.setX w v).bus = s.bus := rfl
@[simp] theorem State.setX_inputs (s : State) (w : Width) (v : Word) : (s.setX w v).inputs = s.inputs := rfl
@[simp] theorem State.setX_owned (s : State) (w : Width) (v : Word) : (s.setX w v).owned = s.owned := rfl
@[simp] theorem State.setX_answers (s : State) (w : Width) (v : Word) : (s.setX w v).answers = s.answers := rfl
@[simp] theorem State.setX_abortRanges (s : State) (w : Width) (v : Word) :
    (s.setX w v).abortRanges = s.abortRanges := rfl
@[simp] theorem State.setX_draws (s : State) (w : Width) (v : Word) : (s.setX w v).draws = s.draws := rfl

/-! ### `State.setY` -/

@[simp] theorem State.setY_cfg (s : State) (w : Width) (v : Word) : (s.setY w v).cfg = s.cfg := rfl
@[simp] theorem State.setY_c (s : State) (w : Width) (v : Word) : (s.setY w v).c = s.c := rfl
@[simp] theorem State.setY_x (s : State) (w : Width) (v : Word) : (s.setY w v).x = s.x := rfl
@[simp] theorem State.setY_y (s : State) (w : Width) (v : Word) : (s.setY w v).y = trunc w v := rfl
@[simp] theorem State.setY_sp (s : State) (w : Width) (v : Word) : (s.setY w v).sp = s.sp := rfl
@[simp] theorem State.setY_d (s : State) (w : Width) (v : Word) : (s.setY w v).d = s.d := rfl
@[simp] theorem State.setY_pc (s : State) (w : Width) (v : Word) : (s.setY w v).pc = s.pc := rfl
@[simp] theorem State.setY_dbr (s : State) (w : Width) (v : Word) : (s.setY w v).dbr = s.dbr := rfl
@[simp] theorem State.setY_pbr (s : State) (w : Width) (v : Word) : (s.setY w v).pbr = s.pbr := rfl
@[simp] theorem State.setY_p (s : State) (w : Width) (v : Word) : (s.setY w v).p = s.p := rfl
@[simp] theorem State.setY_e (s : State) (w : Width) (v : Word) : (s.setY w v).e = s.e := rfl
@[simp] theorem State.setY_waiting (s : State) (w : Width) (v : Word) : (s.setY w v).waiting = s.waiting := rfl
@[simp] theorem State.setY_stopped (s : State) (w : Width) (v : Word) : (s.setY w v).stopped = s.stopped := rfl
@[simp] theorem State.setY_nmiPending (s : State) (w : Width) (v : Word) :
    (s.setY w v).nmiPending = s.nmiPending := rfl
@[simp] theorem State.setY_abortPending (s : State) (w : Width) (v : Word) :
    (s.setY w v).abortPending = s.abortPending := rfl
@[simp] theorem State.setY_resLow (s : State) (w : Width) (v : Word) : (s.setY w v).resLow = s.resLow := rfl
@[simp] theorem State.setY_irqLow (s : State) (w : Width) (v : Word) : (s.setY w v).irqLow = s.irqLow := rfl
@[simp] theorem State.setY_rdyForcedHigh (s : State) (w : Width) (v : Word) :
    (s.setY w v).rdyForcedHigh = s.rdyForcedHigh := rfl
@[simp] theorem State.setY_inReset (s : State) (w : Width) (v : Word) : (s.setY w v).inReset = s.inReset := rfl
@[simp] theorem State.setY_mem (s : State) (w : Width) (v : Word) : (s.setY w v).mem = s.mem := rfl
@[simp] theorem State.setY_bus (s : State) (w : Width) (v : Word) : (s.setY w v).bus = s.bus := rfl
@[simp] theorem State.setY_inputs (s : State) (w : Width) (v : Word) : (s.setY w v).inputs = s.inputs := rfl
@[simp] theorem State.setY_owned (s : State) (w : Width) (v : Word) : (s.setY w v).owned = s.owned := rfl
@[simp] theorem State.setY_answers (s : State) (w : Width) (v : Word) : (s.setY w v).answers = s.answers := rfl
@[simp] theorem State.setY_abortRanges (s : State) (w : Width) (v : Word) :
    (s.setY w v).abortRanges = s.abortRanges := rfl
@[simp] theorem State.setY_draws (s : State) (w : Width) (v : Word) : (s.setY w v).draws = s.draws := rfl

/-! ### `State.setNZ` -/

@[simp] theorem State.setNZ_cfg (s : State) (w : Width) (r : Word) : (s.setNZ w r).cfg = s.cfg := rfl
@[simp] theorem State.setNZ_c (s : State) (w : Width) (r : Word) : (s.setNZ w r).c = s.c := rfl
@[simp] theorem State.setNZ_x (s : State) (w : Width) (r : Word) : (s.setNZ w r).x = s.x := rfl
@[simp] theorem State.setNZ_y (s : State) (w : Width) (r : Word) : (s.setNZ w r).y = s.y := rfl
@[simp] theorem State.setNZ_sp (s : State) (w : Width) (r : Word) : (s.setNZ w r).sp = s.sp := rfl
@[simp] theorem State.setNZ_d (s : State) (w : Width) (r : Word) : (s.setNZ w r).d = s.d := rfl
@[simp] theorem State.setNZ_pc (s : State) (w : Width) (r : Word) : (s.setNZ w r).pc = s.pc := rfl
@[simp] theorem State.setNZ_dbr (s : State) (w : Width) (r : Word) : (s.setNZ w r).dbr = s.dbr := rfl
@[simp] theorem State.setNZ_pbr (s : State) (w : Width) (r : Word) : (s.setNZ w r).pbr = s.pbr := rfl
@[simp] theorem State.setNZ_p (s : State) (w : Width) (r : Word) :
    (s.setNZ w r).p = Sys2Proof.Machine.setNZ w r s.p := rfl
@[simp] theorem State.setNZ_e (s : State) (w : Width) (r : Word) : (s.setNZ w r).e = s.e := rfl
@[simp] theorem State.setNZ_waiting (s : State) (w : Width) (r : Word) :
    (s.setNZ w r).waiting = s.waiting := rfl
@[simp] theorem State.setNZ_stopped (s : State) (w : Width) (r : Word) :
    (s.setNZ w r).stopped = s.stopped := rfl
@[simp] theorem State.setNZ_nmiPending (s : State) (w : Width) (r : Word) :
    (s.setNZ w r).nmiPending = s.nmiPending := rfl
@[simp] theorem State.setNZ_abortPending (s : State) (w : Width) (r : Word) :
    (s.setNZ w r).abortPending = s.abortPending := rfl
@[simp] theorem State.setNZ_resLow (s : State) (w : Width) (r : Word) : (s.setNZ w r).resLow = s.resLow := rfl
@[simp] theorem State.setNZ_irqLow (s : State) (w : Width) (r : Word) : (s.setNZ w r).irqLow = s.irqLow := rfl
@[simp] theorem State.setNZ_rdyForcedHigh (s : State) (w : Width) (r : Word) :
    (s.setNZ w r).rdyForcedHigh = s.rdyForcedHigh := rfl
@[simp] theorem State.setNZ_inReset (s : State) (w : Width) (r : Word) :
    (s.setNZ w r).inReset = s.inReset := rfl
@[simp] theorem State.setNZ_mem (s : State) (w : Width) (r : Word) : (s.setNZ w r).mem = s.mem := rfl
@[simp] theorem State.setNZ_bus (s : State) (w : Width) (r : Word) : (s.setNZ w r).bus = s.bus := rfl
@[simp] theorem State.setNZ_inputs (s : State) (w : Width) (r : Word) : (s.setNZ w r).inputs = s.inputs := rfl
@[simp] theorem State.setNZ_owned (s : State) (w : Width) (r : Word) : (s.setNZ w r).owned = s.owned := rfl
@[simp] theorem State.setNZ_answers (s : State) (w : Width) (r : Word) :
    (s.setNZ w r).answers = s.answers := rfl
@[simp] theorem State.setNZ_abortRanges (s : State) (w : Width) (r : Word) :
    (s.setNZ w r).abortRanges = s.abortRanges := rfl
@[simp] theorem State.setNZ_draws (s : State) (w : Width) (r : Word) : (s.setNZ w r).draws = s.draws := rfl

/-! ### `State.setFlag` -/

@[simp] theorem State.setFlag_cfg (s : State) (f : Flag) (b : Bool) : (s.setFlag f b).cfg = s.cfg := rfl
@[simp] theorem State.setFlag_c (s : State) (f : Flag) (b : Bool) : (s.setFlag f b).c = s.c := rfl
@[simp] theorem State.setFlag_x (s : State) (f : Flag) (b : Bool) : (s.setFlag f b).x = s.x := rfl
@[simp] theorem State.setFlag_y (s : State) (f : Flag) (b : Bool) : (s.setFlag f b).y = s.y := rfl
@[simp] theorem State.setFlag_sp (s : State) (f : Flag) (b : Bool) : (s.setFlag f b).sp = s.sp := rfl
@[simp] theorem State.setFlag_d (s : State) (f : Flag) (b : Bool) : (s.setFlag f b).d = s.d := rfl
@[simp] theorem State.setFlag_pc (s : State) (f : Flag) (b : Bool) : (s.setFlag f b).pc = s.pc := rfl
@[simp] theorem State.setFlag_dbr (s : State) (f : Flag) (b : Bool) : (s.setFlag f b).dbr = s.dbr := rfl
@[simp] theorem State.setFlag_pbr (s : State) (f : Flag) (b : Bool) : (s.setFlag f b).pbr = s.pbr := rfl
@[simp] theorem State.setFlag_p (s : State) (f : Flag) (b : Bool) : (s.setFlag f b).p = putFlag s.p f b := rfl
@[simp] theorem State.setFlag_e (s : State) (f : Flag) (b : Bool) : (s.setFlag f b).e = s.e := rfl
@[simp] theorem State.setFlag_waiting (s : State) (f : Flag) (b : Bool) :
    (s.setFlag f b).waiting = s.waiting := rfl
@[simp] theorem State.setFlag_stopped (s : State) (f : Flag) (b : Bool) :
    (s.setFlag f b).stopped = s.stopped := rfl
@[simp] theorem State.setFlag_nmiPending (s : State) (f : Flag) (b : Bool) :
    (s.setFlag f b).nmiPending = s.nmiPending := rfl
@[simp] theorem State.setFlag_abortPending (s : State) (f : Flag) (b : Bool) :
    (s.setFlag f b).abortPending = s.abortPending := rfl
@[simp] theorem State.setFlag_resLow (s : State) (f : Flag) (b : Bool) :
    (s.setFlag f b).resLow = s.resLow := rfl
@[simp] theorem State.setFlag_irqLow (s : State) (f : Flag) (b : Bool) :
    (s.setFlag f b).irqLow = s.irqLow := rfl
@[simp] theorem State.setFlag_rdyForcedHigh (s : State) (f : Flag) (b : Bool) :
    (s.setFlag f b).rdyForcedHigh = s.rdyForcedHigh := rfl
@[simp] theorem State.setFlag_inReset (s : State) (f : Flag) (b : Bool) :
    (s.setFlag f b).inReset = s.inReset := rfl
@[simp] theorem State.setFlag_mem (s : State) (f : Flag) (b : Bool) : (s.setFlag f b).mem = s.mem := rfl
@[simp] theorem State.setFlag_bus (s : State) (f : Flag) (b : Bool) : (s.setFlag f b).bus = s.bus := rfl
@[simp] theorem State.setFlag_inputs (s : State) (f : Flag) (b : Bool) :
    (s.setFlag f b).inputs = s.inputs := rfl
@[simp] theorem State.setFlag_owned (s : State) (f : Flag) (b : Bool) : (s.setFlag f b).owned = s.owned := rfl
@[simp] theorem State.setFlag_answers (s : State) (f : Flag) (b : Bool) :
    (s.setFlag f b).answers = s.answers := rfl
@[simp] theorem State.setFlag_abortRanges (s : State) (f : Flag) (b : Bool) :
    (s.setFlag f b).abortRanges = s.abortRanges := rfl
@[simp] theorem State.setFlag_draws (s : State) (f : Flag) (b : Bool) : (s.setFlag f b).draws = s.draws := rfl

/-! ### `State.push8` -/

@[simp] theorem State.push8_cfg (s : State) (b : Byte) : (s.push8 b).cfg = s.cfg := rfl
@[simp] theorem State.push8_c (s : State) (b : Byte) : (s.push8 b).c = s.c := rfl
@[simp] theorem State.push8_x (s : State) (b : Byte) : (s.push8 b).x = s.x := rfl
@[simp] theorem State.push8_y (s : State) (b : Byte) : (s.push8 b).y = s.y := rfl
@[simp] theorem State.push8_sp (s : State) (b : Byte) : (s.push8 b).sp = spDown s.e s.sp := rfl
@[simp] theorem State.push8_d (s : State) (b : Byte) : (s.push8 b).d = s.d := rfl
@[simp] theorem State.push8_pc (s : State) (b : Byte) : (s.push8 b).pc = s.pc := rfl
@[simp] theorem State.push8_dbr (s : State) (b : Byte) : (s.push8 b).dbr = s.dbr := rfl
@[simp] theorem State.push8_pbr (s : State) (b : Byte) : (s.push8 b).pbr = s.pbr := rfl
@[simp] theorem State.push8_p (s : State) (b : Byte) : (s.push8 b).p = s.p := rfl
@[simp] theorem State.push8_e (s : State) (b : Byte) : (s.push8 b).e = s.e := rfl
@[simp] theorem State.push8_waiting (s : State) (b : Byte) : (s.push8 b).waiting = s.waiting := rfl
@[simp] theorem State.push8_stopped (s : State) (b : Byte) : (s.push8 b).stopped = s.stopped := rfl
@[simp] theorem State.push8_nmiPending (s : State) (b : Byte) : (s.push8 b).nmiPending = s.nmiPending := rfl
@[simp] theorem State.push8_abortPending (s : State) (b : Byte) :
    (s.push8 b).abortPending = s.abortPending := rfl
@[simp] theorem State.push8_resLow (s : State) (b : Byte) : (s.push8 b).resLow = s.resLow := rfl
@[simp] theorem State.push8_irqLow (s : State) (b : Byte) : (s.push8 b).irqLow = s.irqLow := rfl
@[simp] theorem State.push8_rdyForcedHigh (s : State) (b : Byte) :
    (s.push8 b).rdyForcedHigh = s.rdyForcedHigh := rfl
@[simp] theorem State.push8_inReset (s : State) (b : Byte) : (s.push8 b).inReset = s.inReset := rfl
@[simp] theorem State.push8_mem (s : State) (b : Byte) :
    (s.push8 b).mem = s.mem.put s.owned (phys s.cfg.variant (stackAddr s.sp)) b := rfl
@[simp] theorem State.push8_bus (s : State) (b : Byte) :
    (s.push8 b).bus = s.bus ++ [⟨.write, phys s.cfg.variant (stackAddr s.sp), b, false⟩] := rfl
@[simp] theorem State.push8_inputs (s : State) (b : Byte) : (s.push8 b).inputs = s.inputs := rfl
@[simp] theorem State.push8_owned (s : State) (b : Byte) : (s.push8 b).owned = s.owned := rfl
@[simp] theorem State.push8_answers (s : State) (b : Byte) : (s.push8 b).answers = s.answers := rfl
@[simp] theorem State.push8_abortRanges (s : State) (b : Byte) : (s.push8 b).abortRanges = s.abortRanges := rfl
@[simp] theorem State.push8_draws (s : State) (b : Byte) : (s.push8 b).draws = s.draws := rfl

/-! ### `State.pushN8` -/

@[simp] theorem State.pushN8_cfg (s : State) (b : Byte) : (s.pushN8 b).cfg = s.cfg := rfl
@[simp] theorem State.pushN8_c (s : State) (b : Byte) : (s.pushN8 b).c = s.c := rfl
@[simp] theorem State.pushN8_x (s : State) (b : Byte) : (s.pushN8 b).x = s.x := rfl
@[simp] theorem State.pushN8_y (s : State) (b : Byte) : (s.pushN8 b).y = s.y := rfl
@[simp] theorem State.pushN8_sp (s : State) (b : Byte) : (s.pushN8 b).sp = s.sp - 1 := rfl
@[simp] theorem State.pushN8_d (s : State) (b : Byte) : (s.pushN8 b).d = s.d := rfl
@[simp] theorem State.pushN8_pc (s : State) (b : Byte) : (s.pushN8 b).pc = s.pc := rfl
@[simp] theorem State.pushN8_dbr (s : State) (b : Byte) : (s.pushN8 b).dbr = s.dbr := rfl
@[simp] theorem State.pushN8_pbr (s : State) (b : Byte) : (s.pushN8 b).pbr = s.pbr := rfl
@[simp] theorem State.pushN8_p (s : State) (b : Byte) : (s.pushN8 b).p = s.p := rfl
@[simp] theorem State.pushN8_e (s : State) (b : Byte) : (s.pushN8 b).e = s.e := rfl
@[simp] theorem State.pushN8_waiting (s : State) (b : Byte) : (s.pushN8 b).waiting = s.waiting := rfl
@[simp] theorem State.pushN8_stopped (s : State) (b : Byte) : (s.pushN8 b).stopped = s.stopped := rfl
@[simp] theorem State.pushN8_nmiPending (s : State) (b : Byte) : (s.pushN8 b).nmiPending = s.nmiPending := rfl
@[simp] theorem State.pushN8_abortPending (s : State) (b : Byte) :
    (s.pushN8 b).abortPending = s.abortPending := rfl
@[simp] theorem State.pushN8_resLow (s : State) (b : Byte) : (s.pushN8 b).resLow = s.resLow := rfl
@[simp] theorem State.pushN8_irqLow (s : State) (b : Byte) : (s.pushN8 b).irqLow = s.irqLow := rfl
@[simp] theorem State.pushN8_rdyForcedHigh (s : State) (b : Byte) :
    (s.pushN8 b).rdyForcedHigh = s.rdyForcedHigh := rfl
@[simp] theorem State.pushN8_inReset (s : State) (b : Byte) : (s.pushN8 b).inReset = s.inReset := rfl
@[simp] theorem State.pushN8_mem (s : State) (b : Byte) :
    (s.pushN8 b).mem = s.mem.put s.owned (phys s.cfg.variant (stackAddr s.sp)) b := rfl
@[simp] theorem State.pushN8_bus (s : State) (b : Byte) :
    (s.pushN8 b).bus = s.bus ++ [⟨.write, phys s.cfg.variant (stackAddr s.sp), b, false⟩] := rfl
@[simp] theorem State.pushN8_inputs (s : State) (b : Byte) : (s.pushN8 b).inputs = s.inputs := rfl
@[simp] theorem State.pushN8_owned (s : State) (b : Byte) : (s.pushN8 b).owned = s.owned := rfl
@[simp] theorem State.pushN8_answers (s : State) (b : Byte) : (s.pushN8 b).answers = s.answers := rfl
@[simp] theorem State.pushN8_abortRanges (s : State) (b : Byte) :
    (s.pushN8 b).abortRanges = s.abortRanges := rfl
@[simp] theorem State.pushN8_draws (s : State) (b : Byte) : (s.pushN8 b).draws = s.draws := rfl

/-! ### `State.pull8` -/

@[simp] theorem State.pull8_cfg (s : State) : s.pull8.cfg = s.cfg := rfl
@[simp] theorem State.pull8_c (s : State) : s.pull8.c = s.c := rfl
@[simp] theorem State.pull8_x (s : State) : s.pull8.x = s.x := rfl
@[simp] theorem State.pull8_y (s : State) : s.pull8.y = s.y := rfl
@[simp] theorem State.pull8_sp (s : State) : s.pull8.sp = spUp s.e s.sp := rfl
@[simp] theorem State.pull8_d (s : State) : s.pull8.d = s.d := rfl
@[simp] theorem State.pull8_pc (s : State) : s.pull8.pc = s.pc := rfl
@[simp] theorem State.pull8_dbr (s : State) : s.pull8.dbr = s.dbr := rfl
@[simp] theorem State.pull8_pbr (s : State) : s.pull8.pbr = s.pbr := rfl
@[simp] theorem State.pull8_p (s : State) : s.pull8.p = s.p := rfl
@[simp] theorem State.pull8_e (s : State) : s.pull8.e = s.e := rfl
@[simp] theorem State.pull8_waiting (s : State) : s.pull8.waiting = s.waiting := rfl
@[simp] theorem State.pull8_stopped (s : State) : s.pull8.stopped = s.stopped := rfl
@[simp] theorem State.pull8_nmiPending (s : State) : s.pull8.nmiPending = s.nmiPending := rfl
@[simp] theorem State.pull8_abortPending (s : State) : s.pull8.abortPending = s.abortPending := rfl
@[simp] theorem State.pull8_resLow (s : State) : s.pull8.resLow = s.resLow := rfl
@[simp] theorem State.pull8_irqLow (s : State) : s.pull8.irqLow = s.irqLow := rfl
@[simp] theorem State.pull8_rdyForcedHigh (s : State) : s.pull8.rdyForcedHigh = s.rdyForcedHigh := rfl
@[simp] theorem State.pull8_inReset (s : State) : s.pull8.inReset = s.inReset := rfl
@[simp] theorem State.pull8_mem (s : State) : s.pull8.mem = s.mem := rfl
@[simp] theorem State.pull8_bus (s : State) :
    s.pull8.bus = s.bus ++ [s.readAccess .read false (stackAddr (spUp s.e s.sp))] := rfl
@[simp] theorem State.pull8_inputs (s : State) : s.pull8.inputs = s.inputs := rfl
@[simp] theorem State.pull8_owned (s : State) : s.pull8.owned = s.owned := rfl
@[simp] theorem State.pull8_answers (s : State) : s.pull8.answers = s.answers := rfl
@[simp] theorem State.pull8_abortRanges (s : State) : s.pull8.abortRanges = s.abortRanges := rfl
@[simp] theorem State.pull8_draws (s : State) : s.pull8.draws = s.draws := rfl

/-! ### `State.pullN8` -/

@[simp] theorem State.pullN8_cfg (s : State) : s.pullN8.cfg = s.cfg := rfl
@[simp] theorem State.pullN8_c (s : State) : s.pullN8.c = s.c := rfl
@[simp] theorem State.pullN8_x (s : State) : s.pullN8.x = s.x := rfl
@[simp] theorem State.pullN8_y (s : State) : s.pullN8.y = s.y := rfl
@[simp] theorem State.pullN8_sp (s : State) : s.pullN8.sp = s.sp + 1 := rfl
@[simp] theorem State.pullN8_d (s : State) : s.pullN8.d = s.d := rfl
@[simp] theorem State.pullN8_pc (s : State) : s.pullN8.pc = s.pc := rfl
@[simp] theorem State.pullN8_dbr (s : State) : s.pullN8.dbr = s.dbr := rfl
@[simp] theorem State.pullN8_pbr (s : State) : s.pullN8.pbr = s.pbr := rfl
@[simp] theorem State.pullN8_p (s : State) : s.pullN8.p = s.p := rfl
@[simp] theorem State.pullN8_e (s : State) : s.pullN8.e = s.e := rfl
@[simp] theorem State.pullN8_waiting (s : State) : s.pullN8.waiting = s.waiting := rfl
@[simp] theorem State.pullN8_stopped (s : State) : s.pullN8.stopped = s.stopped := rfl
@[simp] theorem State.pullN8_nmiPending (s : State) : s.pullN8.nmiPending = s.nmiPending := rfl
@[simp] theorem State.pullN8_abortPending (s : State) : s.pullN8.abortPending = s.abortPending := rfl
@[simp] theorem State.pullN8_resLow (s : State) : s.pullN8.resLow = s.resLow := rfl
@[simp] theorem State.pullN8_irqLow (s : State) : s.pullN8.irqLow = s.irqLow := rfl
@[simp] theorem State.pullN8_rdyForcedHigh (s : State) : s.pullN8.rdyForcedHigh = s.rdyForcedHigh := rfl
@[simp] theorem State.pullN8_inReset (s : State) : s.pullN8.inReset = s.inReset := rfl
@[simp] theorem State.pullN8_mem (s : State) : s.pullN8.mem = s.mem := rfl
@[simp] theorem State.pullN8_bus (s : State) :
    s.pullN8.bus = s.bus ++ [s.readAccess .read false (stackAddr (s.sp + 1))] := rfl
@[simp] theorem State.pullN8_inputs (s : State) : s.pullN8.inputs = s.inputs := rfl
@[simp] theorem State.pullN8_owned (s : State) : s.pullN8.owned = s.owned := rfl
@[simp] theorem State.pullN8_answers (s : State) : s.pullN8.answers = s.answers := rfl
@[simp] theorem State.pullN8_abortRanges (s : State) : s.pullN8.abortRanges = s.abortRanges := rfl
@[simp] theorem State.pullN8_draws (s : State) : s.pullN8.draws = s.draws := rfl

/-! ### `State.fixSp` -/

@[simp] theorem State.fixSp_cfg (s : State) : s.fixSp.cfg = s.cfg := rfl
@[simp] theorem State.fixSp_c (s : State) : s.fixSp.c = s.c := rfl
@[simp] theorem State.fixSp_x (s : State) : s.fixSp.x = s.x := rfl
@[simp] theorem State.fixSp_y (s : State) : s.fixSp.y = s.y := rfl
@[simp] theorem State.fixSp_sp (s : State) :
    s.fixSp.sp = if s.e then mkWord 0x01 (loByte s.sp) else s.sp := rfl
@[simp] theorem State.fixSp_d (s : State) : s.fixSp.d = s.d := rfl
@[simp] theorem State.fixSp_pc (s : State) : s.fixSp.pc = s.pc := rfl
@[simp] theorem State.fixSp_dbr (s : State) : s.fixSp.dbr = s.dbr := rfl
@[simp] theorem State.fixSp_pbr (s : State) : s.fixSp.pbr = s.pbr := rfl
@[simp] theorem State.fixSp_p (s : State) : s.fixSp.p = s.p := rfl
@[simp] theorem State.fixSp_e (s : State) : s.fixSp.e = s.e := rfl
@[simp] theorem State.fixSp_waiting (s : State) : s.fixSp.waiting = s.waiting := rfl
@[simp] theorem State.fixSp_stopped (s : State) : s.fixSp.stopped = s.stopped := rfl
@[simp] theorem State.fixSp_nmiPending (s : State) : s.fixSp.nmiPending = s.nmiPending := rfl
@[simp] theorem State.fixSp_abortPending (s : State) : s.fixSp.abortPending = s.abortPending := rfl
@[simp] theorem State.fixSp_resLow (s : State) : s.fixSp.resLow = s.resLow := rfl
@[simp] theorem State.fixSp_irqLow (s : State) : s.fixSp.irqLow = s.irqLow := rfl
@[simp] theorem State.fixSp_rdyForcedHigh (s : State) : s.fixSp.rdyForcedHigh = s.rdyForcedHigh := rfl
@[simp] theorem State.fixSp_inReset (s : State) : s.fixSp.inReset = s.inReset := rfl
@[simp] theorem State.fixSp_mem (s : State) : s.fixSp.mem = s.mem := rfl
@[simp] theorem State.fixSp_bus (s : State) : s.fixSp.bus = s.bus := rfl
@[simp] theorem State.fixSp_inputs (s : State) : s.fixSp.inputs = s.inputs := rfl
@[simp] theorem State.fixSp_owned (s : State) : s.fixSp.owned = s.owned := rfl
@[simp] theorem State.fixSp_answers (s : State) : s.fixSp.answers = s.answers := rfl
@[simp] theorem State.fixSp_abortRanges (s : State) : s.fixSp.abortRanges = s.abortRanges := rfl
@[simp] theorem State.fixSp_draws (s : State) : s.fixSp.draws = s.draws := rfl

/-! ### `State.enterHandler` -/

@[simp] theorem State.enterHandler_cfg (s : State) : s.enterHandler.cfg = s.cfg := rfl
@[simp] theorem State.enterHandler_c (s : State) : s.enterHandler.c = s.c := rfl
@[simp] theorem State.enterHandler_x (s : State) : s.enterHandler.x = s.x := rfl
@[simp] theorem State.enterHandler_y (s : State) : s.enterHandler.y = s.y := rfl
@[simp] theorem State.enterHandler_sp (s : State) : s.enterHandler.sp = s.sp := rfl
@[simp] theorem State.enterHandler_d (s : State) : s.enterHandler.d = s.d := rfl
@[simp] theorem State.enterHandler_pc (s : State) : s.enterHandler.pc = s.pc := rfl
@[simp] theorem State.enterHandler_dbr (s : State) : s.enterHandler.dbr = if s.e then 0x00 else s.dbr := rfl
@[simp] theorem State.enterHandler_pbr (s : State) : s.enterHandler.pbr = 0x00 := rfl
@[simp] theorem State.enterHandler_p (s : State) :
    s.enterHandler.p = putFlag (putFlag s.p .i true) .d false := rfl
@[simp] theorem State.enterHandler_e (s : State) : s.enterHandler.e = s.e := rfl
@[simp] theorem State.enterHandler_waiting (s : State) : s.enterHandler.waiting = s.waiting := rfl
@[simp] theorem State.enterHandler_stopped (s : State) : s.enterHandler.stopped = s.stopped := rfl
@[simp] theorem State.enterHandler_nmiPending (s : State) : s.enterHandler.nmiPending = s.nmiPending := rfl
@[simp] theorem State.enterHandler_abortPending (s : State) :
    s.enterHandler.abortPending = s.abortPending := rfl
@[simp] theorem State.enterHandler_resLow (s : State) : s.enterHandler.resLow = s.resLow := rfl
@[simp] theorem State.enterHandler_irqLow (s : State) : s.enterHandler.irqLow = s.irqLow := rfl
@[simp] theorem State.enterHandler_rdyForcedHigh (s : State) :
    s.enterHandler.rdyForcedHigh = s.rdyForcedHigh := rfl
@[simp] theorem State.enterHandler_inReset (s : State) : s.enterHandler.inReset = s.inReset := rfl
@[simp] theorem State.enterHandler_mem (s : State) : s.enterHandler.mem = s.mem := rfl
@[simp] theorem State.enterHandler_bus (s : State) : s.enterHandler.bus = s.bus := rfl
@[simp] theorem State.enterHandler_inputs (s : State) : s.enterHandler.inputs = s.inputs := rfl
@[simp] theorem State.enterHandler_owned (s : State) : s.enterHandler.owned = s.owned := rfl
@[simp] theorem State.enterHandler_answers (s : State) : s.enterHandler.answers = s.answers := rfl
@[simp] theorem State.enterHandler_abortRanges (s : State) : s.enterHandler.abortRanges = s.abortRanges := rfl
@[simp] theorem State.enterHandler_draws (s : State) : s.enterHandler.draws = s.draws := rfl

/-! ### `State.loadVector` -/

@[simp] theorem State.loadVector_cfg (s : State) (va : Word) : (s.loadVector va).cfg = s.cfg := rfl
@[simp] theorem State.loadVector_c (s : State) (va : Word) : (s.loadVector va).c = s.c := rfl
@[simp] theorem State.loadVector_x (s : State) (va : Word) : (s.loadVector va).x = s.x := rfl
@[simp] theorem State.loadVector_y (s : State) (va : Word) : (s.loadVector va).y = s.y := rfl
@[simp] theorem State.loadVector_sp (s : State) (va : Word) : (s.loadVector va).sp = s.sp := rfl
@[simp] theorem State.loadVector_d (s : State) (va : Word) : (s.loadVector va).d = s.d := rfl
@[simp] theorem State.loadVector_pc (s : State) (va : Word) :
    (s.loadVector va).pc = s.peek16 .vector .bank (mkAddr 0x00 va) := rfl
@[simp] theorem State.loadVector_dbr (s : State) (va : Word) : (s.loadVector va).dbr = s.dbr := rfl
@[simp] theorem State.loadVector_pbr (s : State) (va : Word) : (s.loadVector va).pbr = s.pbr := rfl
@[simp] theorem State.loadVector_p (s : State) (va : Word) : (s.loadVector va).p = s.p := rfl
@[simp] theorem State.loadVector_e (s : State) (va : Word) : (s.loadVector va).e = s.e := rfl
@[simp] theorem State.loadVector_waiting (s : State) (va : Word) : (s.loadVector va).waiting = s.waiting := rfl
@[simp] theorem State.loadVector_stopped (s : State) (va : Word) : (s.loadVector va).stopped = s.stopped := rfl
@[simp] theorem State.loadVector_nmiPending (s : State) (va : Word) :
    (s.loadVector va).nmiPending = s.nmiPending := rfl
@[simp] theorem State.loadVector_abortPending (s : State) (va : Word) :
    (s.loadVector va).abortPending = s.abortPending := rfl
@[simp] theorem State.loadVector_resLow (s : State) (va : Word) : (s.loadVector va).resLow = s.resLow := rfl
@[simp] theorem State.loadVector_irqLow (s : State) (va : Word) : (s.loadVector va).irqLow = s.irqLow := rfl
@[simp] theorem State.loadVector_rdyForcedHigh (s : State) (va : Word) :
    (s.loadVector va).rdyForcedHigh = s.rdyForcedHigh := rfl
@[simp] theorem State.loadVector_inReset (s : State) (va : Word) : (s.loadVector va).inReset = s.inReset := rfl
@[simp] theorem State.loadVector_mem (s : State) (va : Word) : (s.loadVector va).mem = s.mem := rfl
@[simp] theorem State.loadVector_bus (s : State) (va : Word) :
    (s.loadVector va).bus = s.bus ++ s.readAccesses .vector false .bank (mkAddr 0x00 va) 2 := rfl
@[simp] theorem State.loadVector_inputs (s : State) (va : Word) : (s.loadVector va).inputs = s.inputs := rfl
@[simp] theorem State.loadVector_owned (s : State) (va : Word) : (s.loadVector va).owned = s.owned := rfl
@[simp] theorem State.loadVector_answers (s : State) (va : Word) : (s.loadVector va).answers = s.answers := rfl
@[simp] theorem State.loadVector_abortRanges (s : State) (va : Word) :
    (s.loadVector va).abortRanges = s.abortRanges := rfl
@[simp] theorem State.loadVector_draws (s : State) (va : Word) : (s.loadVector va).draws = s.draws := rfl

/-! ### `State.loadP` -/

@[simp] theorem State.loadP_cfg (s : State) (v : Byte) : (s.loadP v).cfg = s.cfg := rfl
@[simp] theorem State.loadP_c (s : State) (v : Byte) : (s.loadP v).c = s.c := rfl
theorem State.loadP_x (s : State) (v : Byte) :
    (s.loadP v).x = trunc (flagWidth (getFlag (s.loadP v).p .x)) s.x := rfl
theorem State.loadP_y (s : State) (v : Byte) :
    (s.loadP v).y = trunc (flagWidth (getFlag (s.loadP v).p .x)) s.y := rfl
@[simp] theorem State.loadP_sp (s : State) (v : Byte) : (s.loadP v).sp = s.sp := rfl
@[simp] theorem State.loadP_d (s : State) (v : Byte) : (s.loadP v).d = s.d := rfl
@[simp] theorem State.loadP_pc (s : State) (v : Byte) : (s.loadP v).pc = s.pc := rfl
@[simp] theorem State.loadP_dbr (s : State) (v : Byte) : (s.loadP v).dbr = s.dbr := rfl
@[simp] theorem State.loadP_pbr (s : State) (v : Byte) : (s.loadP v).pbr = s.pbr := rfl
@[simp] theorem State.loadP_p (s : State) (v : Byte) :
    (s.loadP v).p = if s.e then putFlag (putFlag v .m true) .x true else v := rfl
@[simp] theorem State.loadP_e (s : State) (v : Byte) : (s.loadP v).e = s.e := rfl
@[simp] theorem State.loadP_waiting (s : State) (v : Byte) : (s.loadP v).waiting = s.waiting := rfl
@[simp] theorem State.loadP_stopped (s : State) (v : Byte) : (s.loadP v).stopped = s.stopped := rfl
@[simp] theorem State.loadP_nmiPending (s : State) (v : Byte) : (s.loadP v).nmiPending = s.nmiPending := rfl
@[simp] theorem State.loadP_abortPending (s : State) (v : Byte) :
    (s.loadP v).abortPending = s.abortPending := rfl
@[simp] theorem State.loadP_resLow (s : State) (v : Byte) : (s.loadP v).resLow = s.resLow := rfl
@[simp] theorem State.loadP_irqLow (s : State) (v : Byte) : (s.loadP v).irqLow = s.irqLow := rfl
@[simp] theorem State.loadP_rdyForcedHigh (s : State) (v : Byte) :
    (s.loadP v).rdyForcedHigh = s.rdyForcedHigh := rfl
@[simp] theorem State.loadP_inReset (s : State) (v : Byte) : (s.loadP v).inReset = s.inReset := rfl
@[simp] theorem State.loadP_mem (s : State) (v : Byte) : (s.loadP v).mem = s.mem := rfl
@[simp] theorem State.loadP_bus (s : State) (v : Byte) : (s.loadP v).bus = s.bus := rfl
@[simp] theorem State.loadP_inputs (s : State) (v : Byte) : (s.loadP v).inputs = s.inputs := rfl
@[simp] theorem State.loadP_owned (s : State) (v : Byte) : (s.loadP v).owned = s.owned := rfl
@[simp] theorem State.loadP_answers (s : State) (v : Byte) : (s.loadP v).answers = s.answers := rfl
@[simp] theorem State.loadP_abortRanges (s : State) (v : Byte) : (s.loadP v).abortRanges = s.abortRanges := rfl
@[simp] theorem State.loadP_draws (s : State) (v : Byte) : (s.loadP v).draws = s.draws := rfl

end Sys2Proof.Machine
end

