-- ==== Sys2Proof/Laws/Ops.lean ====
section
/-!
SUPPORT. For each shared operation of Ops and Operands what it does, said once: what a load, a store, a
read-modify-write, a push, a pull and the interrupt sequence leave, and what they leave unchanged.
-/

namespace Sys2Proof.Machine

/-! ### Flags and registers -/

theorem setsNZ_setNZ (p : Byte) (w : Width) (r : Word) : SetsNZ p (setNZ w r p) w r := by
  refine ⟨?_, ?_, ?_⟩
  · simp [topBit]
  · simpa using trunc_eq_zero w r
  · intro f h1 h2; simp [h1, h2]

/-- `SetNZ` of a value and of the value truncated are the same. -/
theorem setNZ_trunc (p : Byte) (w : Width) (r : Word) : setNZ w (trunc w r) p = setNZ w r p := by
  simp only [setNZ, topBit_trunc, trunc_trunc]

theorem accWritten_insertAcc (w : Width) (c v : Word) : AccWritten w c (insertAcc w c v) v := by
  constructor <;> rintro rfl <;> simp [insertAcc_w8]

theorem indexWritten_trunc (w : Width) (v : Word) : IndexWritten w (trunc w v) v := by
  constructor <;> rintro rfl <;> simp [trunc_w8]

theorem AccWritten.trunc {w : Width} {c c' v : Word} (h : AccWritten w c c' v) :
    AccWritten w c c' (trunc w v) := by
  constructor
  · rintro rfl; simpa [trunc_w8] using h.1 rfl
  · rintro rfl; simpa using h.2 rfl

/-! ### Addresses -/

theorem physSize_pos (v : Variant) : 0 < physSize v := by cases v <;> simp [physSize]

/-- A physical address lies inside the part's address space (R37, R61). -/
theorem phys_lt (v : Variant) (ea : Addr) : phys v ea < physSize v := by
  cases v
  · exact ea.isLt
  · exact (offOf ea).isLt

/-- Equal physical addresses have equal offsets. -/
theorem offOf_of_phys (v : Variant) (a b : Addr) (h : phys v a = phys v b) : offOf a = offOf b := by
  cases v
  · rw [BitVec.eq_of_toNat_eq (show a.toNat = b.toNat from h)]
  · exact BitVec.eq_of_toNat_eq h

/-- In bank 0 an address and its offset determine each other on both parts (R61). -/
theorem phys_bank0 (v : Variant) (o : Word) : phys v (mkAddr 0x00 o) = o.toNat := by
  cases v
  · simp [phys, mkAddr_toNat]
  · simp [phys]

theorem phys_stackAddr (v : Variant) (o : Word) : phys v (stackAddr o) = o.toNat := phys_bank0 v o

theorem phys_stackAddr_inj (v : Variant) (a b : Word) :
    phys v (stackAddr a) = phys v (stackAddr b) ↔ a = b := by
  rw [phys_stackAddr, phys_stackAddr]
  exact ⟨BitVec.eq_of_toNat_eq, congrArg _⟩

theorem byteAddr_zero (w : Wrap) (ea : Addr) : byteAddr w ea 0 = ea := by
  cases w <;> simp [byteAddr]

/-- The two bytes of a 16-bit operand lie at different physical addresses. -/
theorem phys_byteAddr_ne (v : Variant) (w : Wrap) (ea : Addr) :
    phys v (byteAddr w ea 1) ≠ phys v (byteAddr w ea 0) := by
  intro h
  have h' := offOf_of_phys _ _ _ h
  have := congrArg BitVec.toNat h'
  cases w <;>
    simp only [byteAddr, offOf_mkAddr, offOf_toNat, mkWord_toNat, BitVec.toNat_add, BitVec.toNat_ofNat,
      loByte_toNat, hiByte_toNat] at this <;> omega

/-- The bytes of an access that wraps in its bank (R65, R67). -/
@[simp] theorem byteAddr_bank (b : Byte) (o : Word) (k : Nat) :
    byteAddr .bank (mkAddr b o) k = mkAddr b (o + BitVec.ofNat 16 k) := by
  simp only [byteAddr, bankOf_mkAddr, offOf_mkAddr]

/-- A 16-bit read that wraps in its bank. -/
theorem State.peek16_bank (s : State) (k : BusKind) (b : Byte) (o : Word) :
    s.peek16 k .bank (mkAddr b o) = mkWord (s.peek k (mkAddr b (o + 1))) (s.peek k (mkAddr b o)) := by
  rw [State.peek16, byteAddr_bank, byteAddr_zero]; rfl

/-- A 24-bit read that wraps in its bank. -/
theorem State.peek24_bank (s : State) (k : BusKind) (b : Byte) (o : Word) :
    s.peek24 k .bank (mkAddr b o) =
      mkAddr (s.peek k (mkAddr b (o + 2))) (mkWord (s.peek k (mkAddr b (o + 1))) (s.peek k (mkAddr b o))) := by
  rw [State.peek24, State.peek16_bank, byteAddr_bank]; rfl

/-! ### Reads -/

/-- In RAM every read answers the byte that memory holds (R62, D1). -/
theorem State.busRead_ram (s : State) (k : BusKind) (a : Nat) (h : s.IsRam a) : s.busRead k a = s.mem.read a := by
  unfold State.IsRam at h
  rw [State.busRead, h]; rfl

/-- So it does where the platform lists no answer to the access. -/
theorem State.busRead_unanswered (s : State) (k : BusKind) (a : Nat)
    (h : s.answers.find? (fun r => r.kind == k && r.addr == a) = none) : s.busRead k a = s.mem.read a := by
  rw [State.busRead, h]; exact ite_self _

/-- Where the platform owns the address, a listed answer is what the access reads. -/
theorem State.busRead_answered (s : State) (k : BusKind) (a : Nat) (r : Answer) (ho : ¬ s.IsRam a)
    (hr : s.answers.find? (fun r => r.kind == k && r.addr == a) = some r) : s.busRead k a = r.data := by
  rw [State.busRead, if_pos (Bool.eq_true_of_not_eq_false ho), hr]; rfl

/-- A read answers the same where memory and the platform's answers are the same. -/
theorem State.busRead_congr (s t : State) (k : BusKind) (a : Nat) (ho : t.owned = s.owned)
    (ha : t.answers = s.answers) (hm : t.mem.read a = s.mem.read a) : t.busRead k a = s.busRead k a := by
  rw [State.busRead, State.busRead, ho, ha, hm]

@[simp] theorem State.peek_advance (s : State) (n : Nat) : (s.advance n).peek = s.peek := rfl

@[simp] theorem State.ea_advance (s : State) (n : Nat) (m : MemMode) : (s.advance n).ea m = s.ea m := by
  cases m <;> rfl

@[simp] theorem State.peekW_advance (s : State) (n : Nat) (k : Width) (w : Wrap) (a : Addr) :
    (s.advance n).peekW k w a = s.peekW k w a := by cases k <;> rfl

@[simp] theorem State.operandValue_advance (s : State) (n : Nat) (k : Width) (o : Operand) :
    (s.advance n).operandValue k o = s.operandValue k o := by
  cases o with
  | imm v => rfl
  | mem m => simp only [State.operandValue, State.ea_advance, State.peekW_advance]

@[simp] theorem State.formingAccesses_advance (s : State) (n : Nat) (m : MemMode) :
    (s.advance n).formingAccesses m = s.formingAccesses m := by cases m <;> rfl

@[simp] theorem State.operandAddr_advance (s : State) (n : Nat) (m : MemMode) (k : Nat) :
    (s.advance n).operandAddr m k = s.operandAddr m k := by
  simp only [State.operandAddr, State.ea_advance, State.advance_cfg]

@[simp] theorem State.mw_advance (s : State) (n : Nat) : (s.advance n).mw = s.mw := rfl

@[simp] theorem State.xw_advance (s : State) (n : Nat) : (s.advance n).xw = s.xw := rfl

@[simp] theorem State.acc_advance (s : State) (n : Nat) : (s.advance n).acc = s.acc := rfl

/-- An operand has no bits above its width. -/
theorem State.operandValue_lt (s : State) (n : Width) (o : Operand) :
    (s.operandValue n o).toNat < 2 ^ widthBits n := by
  cases o with
  | imm v => rw [State.operandValue, trunc_toNat]; exact Nat.mod_lt _ (Nat.two_pow_pos _)
  | mem m =>
    cases n
    · have : s.operandValue .w8 (.mem m) = mkWord 0x00 (s.peek .read (byteAddr (operandWrap m) (s.ea m) 0)) := rfl
      rw [this, mkWord_toNat]
      have := (s.peek .read (byteAddr (operandWrap m) (s.ea m) 0)).isLt
      simpa [widthBits] using this
    · exact (s.operandValue .w16 (.mem m)).isLt

theorem State.trunc_operandValue (s : State) (n : Width) (o : Operand) :
    trunc n (s.operandValue n o) = s.operandValue n o := by
  apply BitVec.eq_of_toNat_eq
  rw [trunc_toNat, Nat.mod_eq_of_lt (s.operandValue_lt n o)]

theorem State.acc_lt (s : State) : s.acc.toNat < 2 ^ widthBits s.mw := by
  rw [State.acc, trunc_toNat]; exact Nat.mod_lt _ (Nat.two_pow_pos _)

/-! ### Load -/

/-- A load changes nothing but the bus record. -/
theorem State.noteLoad_eq (s : State) (n : Width) (o : Operand) :
    s.noteLoad n o = { s with bus := (s.noteLoad n o).bus } := by cases o <;> rfl

/-- What a load puts on the bus (R68 (a), R145). -/
theorem State.noteLoad_bus (s : State) (n : Width) (m : MemMode) :
    (s.noteLoad n (.mem m)).bus = s.bus ++ (s.formingAccesses m ++
      s.readAccesses .read false (operandWrap m) (s.ea m) (widthBytes n)) := rfl

/-! ### Store -/

/-- A store changes nothing but memory and the bus record. -/
theorem State.store_eq (s : State) (n : Width) (m : MemMode) (v : Word) :
    s.store n m v = { s with mem := (s.store n m v).mem, bus := (s.store n m v).bus } := by
  cases n <;> rfl

theorem State.store_mem (s : State) (n : Width) (m : MemMode) (v : Word) :
    (s.store n m v).mem = match n with
      | .w8 => s.mem.put s.owned (s.operandAddr m 0) (loByte v)
      | .w16 => (s.mem.put s.owned (s.operandAddr m 0) (loByte v)).put s.owned (s.operandAddr m 1)
          (hiByte v) := by
  cases n <;> rfl

/-- The accesses of a store: those that form its address, then its bytes, low byte first (R68, R160). -/
theorem State.store_bus (s : State) (n : Width) (m : MemMode) (v : Word) :
    (s.store n m v).bus = s.bus ++ s.formingAccesses m ++
      ⟨.write, s.operandAddr m 0, loByte v, false⟩ ::
        (if n = .w8 then [] else [⟨.write, s.operandAddr m 1, hiByte v, false⟩]) := by
  cases n <;> simp [State.store, State.storeW, State.write8, State.note, State.operandAddr]

/-- What a store stores (R160). -/
theorem State.store_stores (s : State) (n : Width) (m : MemMode) (v : Word) :
    Stores s (s.store n m v) n m v := by
  have hne : s.operandAddr m 1 ≠ s.operandAddr m 0 := phys_byteAddr_ne _ _ _
  cases n
  · refine ⟨fun h => ?_, nofun, ?_, ?_⟩
    · rw [State.store_mem, Memory.read_put_self _ _ _ _ h]
    · intro a h0 _; rw [State.store_mem, Memory.read_put_other _ _ _ _ _ h0]
    · intro a h; rw [State.store_mem, Memory.read_put_owned _ _ _ _ _ h]
  · refine ⟨fun h => ?_, fun _ h => ?_, ?_, ?_⟩
    · rw [State.store_mem, Memory.read_put_other _ _ _ _ _ hne.symm, Memory.read_put_self _ _ _ _ h]
    · rw [State.store_mem, Memory.read_put_self _ _ _ _ h]
    · intro a h0 h1
      rw [State.store_mem, Memory.read_put_other _ _ _ _ _ (h1 rfl), Memory.read_put_other _ _ _ _ _ h0]
    · intro a h; rw [State.store_mem, Memory.read_put_owned _ _ _ _ _ h, Memory.read_put_owned _ _ _ _ _ h]

/-! ### Read-modify-write -/

theorem State.rmwOld_eq (s : State) (m : MemMode) : s.rmwOld m = s.operandValue s.mw (.mem m) := rfl

/-- A read-modify-write of memory changes nothing but P, memory and the bus record; P is what the operation
answers. -/
theorem State.rmw_eq (s : State) (m : MemMode) (op : UnaryOp) :
    s.rmw m op = { s with
      p := (op s.mw (s.operandValue s.mw (.mem m)) s.p).2
      mem := (s.rmw m op).mem
      bus := (s.rmw m op).bus } := by
  have hw : ∀ (t : State) (n : Width) (w : Wrap) (ea : Addr) (v : Word) (q : Byte),
      ({ t.writeBackW n w ea v with p := q } : State) =
        { t with p := q, mem := (t.writeBackW n w ea v).mem, bus := (t.writeBackW n w ea v).bus } := by
    intro t n w ea v q; cases n <;> rfl
  have hf : s.rmwFetch m = { s with mem := (s.rmwFetch m).mem, bus := (s.rmwFetch m).bus } := by
    simp only [State.rmwFetch]; split <;> rfl
  simp only [State.rmw, State.rmwOld_eq]
  rw [hw, hf]

/-- What a read-modify-write stores: the operation's result, to the address it was read from (R180). -/
theorem State.rmw_stores (s : State) (m : MemMode) (op : UnaryOp) :
    Stores s (s.rmw m op) s.mw m (op s.mw (s.operandValue s.mw (.mem m)) s.p).1 := by
  have hne : s.operandAddr m 1 ≠ s.operandAddr m 0 := phys_byteAddr_ne _ _ _
  have hfetch : ∀ a, a ≠ s.operandAddr m 0 ∨ ¬ s.IsRam a → (s.rmwFetch m).mem.read a = s.mem.read a := by
    intro a ha
    simp only [State.rmwFetch]
    split
    · rcases ha with ha | ha
      · exact Memory.read_put_other _ _ _ _ _ ha
      · exact Memory.read_put_owned _ _ _ _ _ ha
    · rfl
  have hcfg : (s.rmwFetch m).cfg = s.cfg := by simp only [State.rmwFetch]; split <;> rfl
  have hown : (s.rmwFetch m).owned = s.owned := by simp only [State.rmwFetch]; split <;> rfl
  have hmem : (s.rmw m op).mem = match s.mw with
      | .w8 => (s.rmwFetch m).mem.put s.owned (s.operandAddr m 0) (loByte (op s.mw (s.rmwOld m) s.p).1)
      | .w16 => ((s.rmwFetch m).mem.put s.owned (s.operandAddr m 1)
          (hiByte (op s.mw (s.rmwOld m) s.p).1)).put s.owned (s.operandAddr m 0)
            (loByte (op s.mw (s.rmwOld m) s.p).1) := by
    simp only [State.rmw, State.writeBackW, State.operandAddr, ← hcfg, ← hown]
    cases s.mw <;> rfl
  rw [State.rmwOld_eq] at hmem
  generalize hw : s.mw = w at *
  cases w
  · refine ⟨fun h => ?_, nofun, ?_, ?_⟩
    · rw [hmem, Memory.read_put_self _ _ _ _ h]
    · intro a h0 _; rw [hmem, Memory.read_put_other _ _ _ _ _ h0, hfetch a (.inl h0)]
    · intro a h; rw [hmem, Memory.read_put_owned _ _ _ _ _ h, hfetch a (.inr h)]
  · refine ⟨fun h => ?_, fun _ h => ?_, ?_, ?_⟩
    · rw [hmem, Memory.read_put_self _ _ _ _ h]
    · rw [hmem, Memory.read_put_other _ _ _ _ _ hne, Memory.read_put_self _ _ _ _ h]
    · intro a h0 h1
      rw [hmem, Memory.read_put_other _ _ _ _ _ h0, Memory.read_put_other _ _ _ _ _ (h1 rfl),
        hfetch a (.inl h0)]
    · intro a h
      rw [hmem, Memory.read_put_owned _ _ _ _ _ h, Memory.read_put_owned _ _ _ _ _ h, hfetch a (.inr h)]

/-- What a read-modify-write puts on the bus (R68 (c), R69, R180). -/
theorem State.rmw_bus (s : State) (m : MemMode) (op : UnaryOp) :
    (s.rmw m op).bus = s.bus ++ (s.formingAccesses m ++
        s.readAccesses .read true (operandWrap m) (s.ea m) (widthBytes s.mw)) ++
      (if s.e then [⟨.modify, s.operandAddr m 0, loByte (s.rmwOld m), true⟩] else []) ++
      (match s.mw with
        | .w8 => [⟨.write, s.operandAddr m 0, loByte (op s.mw (s.rmwOld m) s.p).1, true⟩]
        | .w16 => [⟨.write, s.operandAddr m 1, hiByte (op s.mw (s.rmwOld m) s.p).1, true⟩,
            ⟨.write, s.operandAddr m 0, loByte (op s.mw (s.rmwOld m) s.p).1, true⟩]) := by
  have hcfg : (s.rmwFetch m).cfg = s.cfg := by simp only [State.rmwFetch]; split <;> rfl
  have hbus : (s.rmwFetch m).bus = s.bus ++ (s.formingAccesses m ++
        s.readAccesses .read true (operandWrap m) (s.ea m) (widthBytes s.mw)) ++
      (if s.e then [⟨.modify, s.operandAddr m 0, loByte (s.rmwOld m), true⟩] else []) := by
    simp only [State.rmwFetch]; split
    · rfl
    · exact (List.append_nil _).symm
  have h1 : (s.rmw m op).bus = ((s.rmwFetch m).writeBackW s.mw (operandWrap m) (s.ea m)
      (op s.mw (s.rmwOld m) s.p).1).bus := rfl
  rw [h1]
  generalize s.mw = w at *
  cases w
  · show (s.rmwFetch m).bus ++ [_] = _
    rw [hbus, hcfg]; rfl
  · show ((s.rmwFetch m).bus ++ [_]) ++ [_] = _
    rw [hbus, List.append_assoc _ [_] [_]]
    simp only [State.write8_cfg, hcfg]; rfl

/-- An operation on the accumulator changes nothing but C and P. -/
theorem State.rmwAcc_eq (s : State) (op : UnaryOp) :
    s.rmwAcc op = { s with
      c := insertAcc s.mw s.c (op s.mw s.acc s.p).1
      p := (op s.mw s.acc s.p).2 } := rfl

/-! ### Pushes -/

/-- The bytes of a list pushed in order, S moving as the given function says. -/
def pushAll (down : Word → Word) (v : Variant) (owned : List AddressRange) : Word → List Byte → Memory → Memory
  | _, [], mem => mem
  | sp, b :: rest, mem =>
    pushAll down v owned (down sp) rest (mem.put owned (phys v (stackAddr sp)) b)

/-- S after `k` pushes. -/
def downTimes (down : Word → Word) (sp : Word) : Nat → Word
  | 0 => sp
  | k + 1 => down (downTimes down sp k)

theorem downTimes_shift (down : Word → Word) (sp : Word) (k : Nat) :
    downTimes down (down sp) k = downTimes down sp (k + 1) := by
  induction k with
  | zero => rfl
  | succ k ih => rw [downTimes, ih]; rfl

theorem State.sDown_eq (s : State) (k : Nat) : s.sDown k = downTimes (spDown s.e) s.sp k := by
  induction k with
  | zero => rfl
  | succ k ih => rw [State.sDown, ih]; rfl

theorem downTimes_sub_one (sp : Word) (k : Nat) :
    downTimes (fun o => o - 1) sp k = sp - BitVec.ofNat 16 k := by
  induction k with
  | zero => simp [downTimes]
  | succ k ih =>
    rw [downTimes, ih]
    apply BitVec.eq_of_toNat_eq
    have h1 : (1 : Word).toNat = 1 := rfl
    simp only [BitVec.toNat_sub, BitVec.toNat_ofNat, h1]
    omega

/-- The low byte of S after `k` plain pushes. -/
theorem spDown_lo (e : Bool) (sp : Word) : loByte (spDown e sp) = loByte sp - 1 := by
  cases e
  · apply BitVec.eq_of_toNat_eq
    simp only [spDown, Bool.false_eq_true, if_false, loByte_toNat, BitVec.toNat_sub]
    simp; omega
  · simp [spDown]

theorem downTimes_lo (down : Word → Word) (hd : ∀ o, loByte (down o) = loByte o - 1) (sp : Word) (k : Nat) :
    loByte (downTimes down sp k) = loByte sp - BitVec.ofNat 8 k := by
  induction k with
  | zero => simp [downTimes]
  | succ k ih =>
    rw [downTimes, hd, ih]
    apply BitVec.eq_of_toNat_eq
    have h1 : (1 : Byte).toNat = 1 := rfl
    simp only [BitVec.toNat_sub, BitVec.toNat_ofNat, h1]
    omega

theorem downTimes_ne (down : Word → Word) (hd : ∀ o, loByte (down o) = loByte o - 1) (sp : Word)
    (j k : Nat) (hj : j < 256) (hk : k < 256) (hne : j ≠ k) : downTimes down sp j ≠ downTimes down sp k := by
  intro h
  have := congrArg loByte h
  rw [downTimes_lo down hd, downTimes_lo down hd] at this
  have := congrArg BitVec.toNat this
  simp only [BitVec.toNat_sub, BitVec.toNat_ofNat] at this
  omega

theorem pushAll_frame (down : Word → Word) (v : Variant) (owned : List AddressRange) (bytes : List Byte)
    (sp : Word) (mem : Memory) (a : Nat)
    (h : ∀ k, k < bytes.length → a ≠ phys v (stackAddr (downTimes down sp k))) :
    (pushAll down v owned sp bytes mem).read a = mem.read a := by
  induction bytes generalizing sp mem with
  | nil => rfl
  | cons b rest ih =>
    rw [pushAll, ih]
    · exact Memory.read_put_other _ _ _ _ _ (h 0 (by simp))
    · intro k hk
      rw [downTimes_shift]
      exact h (k + 1) (by simpa using hk)

theorem pushAll_owned (down : Word → Word) (v : Variant) (owned : List AddressRange) (bytes : List Byte)
    (sp : Word) (mem : Memory) (a : Nat) (h : inRanges owned a ≠ false) :
    (pushAll down v owned sp bytes mem).read a = mem.read a := by
  induction bytes generalizing sp mem with
  | nil => rfl
  | cons b rest ih => rw [pushAll, ih, Memory.read_put_owned _ _ _ _ _ h]

theorem pushAll_read (down : Word → Word) (hd : ∀ o, loByte (down o) = loByte o - 1) (v : Variant)
    (owned : List AddressRange) (bytes : List Byte) (sp : Word) (mem : Memory) (hlen : bytes.length < 256)
    (k : Nat) (b : Byte) (h : bytes[k]? = some b)
    (hram : inRanges owned (phys v (stackAddr (downTimes down sp k))) = false) :
    (pushAll down v owned sp bytes mem).read (phys v (stackAddr (downTimes down sp k))) = b := by
  induction bytes generalizing sp mem k with
  | nil => simp at h
  | cons b0 rest ih =>
    have hl : rest.length < 255 := by rw [List.length_cons] at hlen; omega
    cases k with
    | zero =>
      rw [pushAll, pushAll_frame]
      · rw [show b = b0 by simpa using h.symm]; exact Memory.read_put_self _ _ _ _ hram
      · intro k hk heq
        rw [phys_stackAddr_inj, downTimes_shift] at heq
        exact downTimes_ne down hd sp 0 (k + 1) (by omega) (by omega) (by omega) heq
    | succ k =>
      rw [← downTimes_shift] at hram
      rw [pushAll, ← downTimes_shift]
      exact ih (down sp) _ (by omega) k (by simpa using h) hram

/-- A state whose memory is the old one with a list of bytes pushed. -/
theorem Pushes.of_pushAll (s t : State) (down : Word → Word) (hd : ∀ o, loByte (down o) = loByte o - 1)
    (bytes : List Byte) (hlen : bytes.length < 256) (hcfg : t.cfg = s.cfg)
    (hown : t.owned = s.owned) (hmem : t.mem = pushAll down s.cfg.variant s.owned s.sp bytes s.mem) :
    Pushes s t (downTimes down s.sp) bytes := by
  refine ⟨?_, ?_, ?_⟩
  · intro k b h hram
    have hr : t.IsRam (phys t.cfg.variant (stackAddr (downTimes down s.sp k))) := by
      unfold State.IsRam; rw [hown, hcfg]; exact hram
    rw [State.stackByte, State.peek, State.busRead_ram _ _ _ hr, hmem, hcfg]
    exact pushAll_read down hd _ _ bytes _ _ hlen k b h hram
  · intro a h
    rw [hmem]
    exact pushAll_frame down _ _ bytes _ _ a h
  · intro a h
    rw [hmem]
    exact pushAll_owned down _ _ bytes _ _ a h

/-- Plain pushes (R260). -/
theorem Pushes.plain (s t : State) (bytes : List Byte) (hlen : bytes.length < 256) (hcfg : t.cfg = s.cfg)
    (hown : t.owned = s.owned) (hmem : t.mem = pushAll (spDown s.e) s.cfg.variant s.owned s.sp bytes s.mem) :
    Pushes s t s.sDown bytes := by
  have := Pushes.of_pushAll s t (spDown s.e) (spDown_lo s.e) bytes hlen hcfg hown hmem
  rwa [show downTimes (spDown s.e) s.sp = s.sDown from funext fun k => (s.sDown_eq k).symm] at this

/-- Pushes with 16-bit stack arithmetic (R263). -/
theorem Pushes.wide (s t : State) (bytes : List Byte) (hlen : bytes.length < 256) (hcfg : t.cfg = s.cfg)
    (hown : t.owned = s.owned) (hmem : t.mem = pushAll (fun o => o - 1) s.cfg.variant s.owned s.sp bytes s.mem) :
    Pushes s t (fun k => s.sp - BitVec.ofNat 16 k) bytes := by
  have := Pushes.of_pushAll s t (fun o => o - 1) (spDown_lo false) bytes hlen hcfg hown hmem
  rwa [show downTimes (fun o => o - 1) s.sp = fun k => s.sp - BitVec.ofNat 16 k from
    funext fun k => downTimes_sub_one s.sp k] at this

/-- `PushN16(v)` changes S, memory and the bus record. -/
theorem State.pushN16_eq (s : State) (v : Word) :
    s.pushN16 v = { s with sp := s.sp - 2, mem := (s.pushN16 v).mem, bus := (s.pushN16 v).bus } := by
  have : (s.pushN16 v).sp = s.sp - 2 := BitVec.sub_sub s.sp 1 1
  rw [← this]; rfl

/-- What `PushN16(v)` pushes (R263): the high byte at S, the low byte below it. -/
theorem State.pushN16_pushes (s : State) (v : Word) :
    Pushes s (s.pushN16 v) (fun k => s.sp - BitVec.ofNat 16 k) [hiByte v, loByte v] :=
  Pushes.wide s _ _ (by simp) rfl rfl rfl

/-- The push of a word with 16-bit stack arithmetic (R263, R264 (a)) changes S, memory and the bus record; in
Emulation mode SH ends as 01. -/
theorem State.pushWordN_eq (s : State) (v : Word) :
    s.pushWordN v = { s with sp := fixedSp s.e (s.sp - 2), mem := (s.pushWordN v).mem, bus := (s.pushWordN v).bus } := by
  have : (s.pushWordN v).sp = fixedSp s.e (s.sp - 2) := congrArg (fixedSp s.e) (BitVec.sub_sub s.sp 1 1)
  rw [← this]; rfl

/-- What it pushes: the high byte at S, the low byte below it. -/
theorem State.pushWordN_pushes (s : State) (v : Word) :
    Pushes s (s.pushWordN v) (fun k => s.sp - BitVec.ofNat 16 k) [hiByte v, loByte v] :=
  Pushes.wide s _ _ (by simp) rfl rfl rfl

/-- The end of JSR (a,x): the jump through the table, then SH (R263, R307). -/
theorem State.jumpTable_fixSp (s : State) (l : List BusAccess) (a : Word) :
    ((s.note l).jumpTable a).fixSp = { s with
      sp := fixedSp s.e s.sp, pc := ((s.note l).jumpTable a).fixSp.pc
      bus := ((s.note l).jumpTable a).fixSp.bus } := rfl

/-- The end of JSL: the jump, then SH (R263, R308). -/
theorem State.jumpLong_fixSp (s : State) (a : Addr) :
    (s.jumpLong a).fixSp = { s with sp := fixedSp s.e s.sp, pc := offOf a, pbr := bankOf a } := rfl

/-- JSR (a,x) (R307) changes S, PC, memory and the bus record; memory as its pushes leave it. -/
theorem State.callIndexedIndirect_eq (s : State) (a : Word) :
    s.callIndexedIndirect a = { s with
      sp := fixedSp s.e (s.sp - 2), pc := (s.callIndexedIndirect a).pc
      mem := (s.pushN16 (s.pc + 2)).mem, bus := (s.callIndexedIndirect a).bus } := by
  simp only [State.callIndexedIndirect]
  conv_lhs => rw [State.jumpTable_fixSp, State.pushN16_eq]
  rw [State.pushN16_eq]

/-- JSL (R308) changes S, PC, PBR, memory and the bus record. -/
theorem State.callLong_eq (s : State) (a : Addr) :
    s.callLong a = { s with
      sp := fixedSp s.e (s.sp - 3), pc := offOf a, pbr := (s.callLong a).pbr
      mem := (s.callLong a).mem, bus := (s.callLong a).bus } := by
  have h : s.sp - 1 - 2 = s.sp - 3 := BitVec.sub_sub s.sp 1 2
  simp only [State.callLong, State.jumpLong_fixSp]
  conv_lhs => rw [State.pushN16_eq]
  simp only [State.note_e, State.note_sp, State.pushN8_e, State.pushN8_sp, h, offOf_mkAddr]
  rfl

/-- The bank JSL goes to: its last byte, as it is after PBR has been pushed (R308). -/
theorem State.callLong_pbr (s : State) (a : Addr) :
    (s.callLong a).pbr = (s.pushN8 s.pbr).lateByte s (s.codeAddr 3) (bankOf a) := by
  simp only [State.callLong, State.jumpLong_fixSp, bankOf_mkAddr]

/-- What JSL pushes: PBR, then the address of its last byte. -/
theorem State.callLong_pushes (s : State) (a : Addr) :
    Pushes s (s.callLong a) (fun k => s.sp - BitVec.ofNat 16 k) [s.pbr, hiByte (s.pc + 3), loByte (s.pc + 3)] :=
  Pushes.wide s _ _ (by simp) (by rw [State.callLong_eq]) (by rw [State.callLong_eq]) rfl

/-- The stack below S does not depend on the program counter. -/
@[simp] theorem State.sDown_advance (s : State) (n : Nat) : (s.advance n).sDown = s.sDown := by
  funext k
  induction k with
  | zero => rfl
  | succ k ih => rw [State.sDown, ih]; rfl

@[simp] theorem State.sUp_advance (s : State) (n : Nat) : (s.advance n).sUp = s.sUp := by
  funext k
  induction k with
  | zero => rfl
  | succ k ih => rw [State.sUp, ih]; rfl

@[simp] theorem State.stackByte_advance (s : State) (n : Nat) : (s.advance n).stackByte = s.stackByte := rfl

/-! ### Loading P -/

/-- A write of the whole of P (R31, R339, R340): everything it does. -/
theorem State.loadP_eq (s : State) (v : Byte) :
    let p := if s.e then v ||| 0b00110000 else v
    s.loadP v = { s with
      p := p
      x := if p.getLsbD 4 then mkWord 0x00 (loByte s.x) else s.x
      y := if p.getLsbD 4 then mkWord 0x00 (loByte s.y) else s.y } := by
  intro p
  have h : (if s.e = true then putFlag (putFlag v .m true) .x true else v) = p := by
    simp only [putFlag_m_x, p]
  have hx : getFlag p .x = p.getLsbD 4 := rfl
  rw [State.loadP, h, hx]
  cases p.getLsbD 4 <;> rfl

/-! ### Taking an interrupt -/

/-- The stacked status byte (R412): its bits in Emulation mode. -/
theorem stackedP_emulation (src : Source) (p : Byte) :
    stackedP src true p =
      p.extractLsb' 6 2 ++ 1#1 ++ BitVec.ofBool (isSoftware src) ++ p.extractLsb' 0 4 := by
  revert p; cases src <;> decide

/-- The pushes of the interrupt sequence (R410 steps 2 to 4). -/
theorem State.pushFrame_eq (s : State) (src : Source) (ret : Word) :
    s.pushFrame src ret = { s with
      sp := s.sDown (s.frameBytes src ret).length
      mem := pushAll (spDown s.e) s.cfg.variant s.owned s.sp (s.frameBytes src ret) s.mem
      bus := (s.pushFrame src ret).bus } := by
  simp only [State.pushFrame, State.frameBytes]
  cases he : s.e
  · simp [State.push16, State.push8, State.write8, State.sDown, pushAll, stackedP, he]
  · rw [← stackedP_emulation]
    simp [State.push16, State.push8, State.write8, State.sDown, pushAll, he]

theorem State.frameBytes_length (s : State) (src : Source) (ret : Word) :
    (s.frameBytes src ret).length = if s.e then 3 else 4 := by
  simp only [State.frameBytes]; split <;> rfl

/-- The interrupt sequence (R410): everything it does. -/
theorem State.interrupt_entered (s : State) (src : Source) (ret : Word) :
    Entered s (s.interrupt src ret) src ret := by
  have hcfg : (s.pushFrame src ret).cfg = s.cfg := by rw [State.pushFrame_eq]
  have hp : (s.pushFrame src ret).p = s.p := by rw [State.pushFrame_eq]
  have he : (s.pushFrame src ret).e = s.e := by rw [State.pushFrame_eq]
  have hlen := s.frameBytes_length src ret
  refine ⟨?_, ?_, ?_, ?_, ?_, rfl, ?_, ?_, ?_⟩
  · apply Pushes.plain
    · rw [hlen]; split <;> decide
    · exact hcfg
    · show (s.pushFrame src ret).owned = s.owned
      rw [State.pushFrame_eq]
    · show (s.pushFrame src ret).mem = _
      rw [State.pushFrame_eq]
  · show (s.pushFrame src ret).sp = _
    rw [State.pushFrame_eq]
  · show getFlag (putFlag (putFlag (s.pushFrame src ret).p .i true) .d false) .i = true
    simp
  · show getFlag (putFlag (putFlag (s.pushFrame src ret).p .i true) .d false) .d = false
    simp
  · intro f hf
    show getFlag (putFlag (putFlag (s.pushFrame src ret).p .i true) .d false) f = _
    simp only [List.mem_cons, List.not_mem_nil, or_false, not_or] at hf
    rw [getFlag_putFlag, if_neg hf.2, getFlag_putFlag, if_neg hf.1, hp]
  · show (if (s.pushFrame src ret).e then (0x00 : Byte) else (s.pushFrame src ret).dbr) = _
    rw [State.pushFrame_eq]
  · rw [State.interrupt, State.loadVector_pc, State.peek16_bank]
    rfl
  · rw [State.interrupt, State.pushFrame_eq]; rfl

/-! ### Pulls -/

theorem spUp_spDown (e : Bool) (sp : Word) (h : e = true → hiByte sp = 0x01) : spUp e (spDown e sp) = sp := by
  cases e
  · simp [spUp, spDown]
  · simp only [spUp, spDown, if_true, loByte_mkWord]
    rw [BitVec.sub_add_cancel, ← h rfl, mkWord_hi_lo]

/-- RTI (R362): everything it does. -/
theorem State.returnFromInterrupt_eq (s : State) :
    s.returnFromInterrupt = { s.loadP (s.stackByte (s.sUp 1)) with
      pc := mkWord (s.stackByte (s.sUp 3)) (s.stackByte (s.sUp 2))
      pbr := if s.e then s.pbr else s.stackByte (s.sUp 4)
      sp := if s.e then s.sUp 3 else s.sUp 4
      bus := s.returnFromInterrupt.bus } := by
  cases he : s.e <;>
    simp [State.returnFromInterrupt, State.pull16, State.pulled16, State.pull8, State.pulled8, State.loadP,
      State.setPc, State.sUp, State.stackByte, State.peek, State.busRead, he]

end Sys2Proof.Machine
end

