-- ==== Sys2Proof/Laws/PerInstr.lean ====
section
/-!
SUPPORT. The encoder and the opcode matrix agree (30_encoding.md R91, R94, R95), one lemma a constructor:
the first byte the encoder writes is an opcode whose cell has a shape that makes this instruction out of
the bytes that follow.
-/

namespace Sys2Proof.Laws.MatrixCell

/-- A shape makes an instruction out of operand bytes: the shape's constructor applied to the operand they
spell; an immediate is the only operand whose length the width flags select (R91, R93). -/
def makes (i : Instr) (bytes : List Byte) : Shape → Prop
  | .imp j => i = j ∧ bytes = []
  | .b8 f => ∃ b, i = f b ∧ bytes = [b]
  | .b16 f => ∃ w, i = f w ∧ bytes = wordBytes w
  | .b24 f => ∃ a, i = f a ∧ bytes = addrBytes a
  | .immM f => ∃ v, i = f v ∧ bytes = immBytes v ∧ ∀ m x, i.wellFormed m x = v.fits m
  | .immX f => ∃ v, i = f v ∧ bytes = immBytes v ∧ ∀ m x, i.wellFormed m x = v.fits x
  | .blk f => ∃ dst src, i = f dst src ∧ bytes = [dst, src]

/-- The encoder's line for an instruction agrees with the cell of its opcode. -/
def Statement (i : Instr) : Prop :=
  ∃ op bytes cell, encode i = op :: bytes ∧ cellOf op = some cell ∧ makes i bytes cell.shape

theorem brk (sig : Byte) : Statement (.brk sig) :=
  ⟨_, _, _, rfl, rfl, _, rfl, rfl⟩
theorem oraDirXInd (off : Byte) : Statement (.oraDirXInd off) :=
  ⟨_, _, _, rfl, rfl, _, rfl, rfl⟩
theorem cop (sig : Byte) : Statement (.cop sig) :=
  ⟨_, _, _, rfl, rfl, _, rfl, rfl⟩
theorem oraStk (off : Byte) : Statement (.oraStk off) :=
  ⟨_, _, _, rfl, rfl, _, rfl, rfl⟩
theorem tsbDir (off : Byte) : Statement (.tsbDir off) :=
  ⟨_, _, _, rfl, rfl, _, rfl, rfl⟩
theorem oraDir (off : Byte) : Statement (.oraDir off) :=
  ⟨_, _, _, rfl, rfl, _, rfl, rfl⟩
theorem aslDir (off : Byte) : Statement (.aslDir off) :=
  ⟨_, _, _, rfl, rfl, _, rfl, rfl⟩
theorem oraDirLong (off : Byte) : Statement (.oraDirLong off) :=
  ⟨_, _, _, rfl, rfl, _, rfl, rfl⟩
theorem php : Statement .php :=
  ⟨_, _, _, rfl, rfl, rfl, rfl⟩
theorem oraImm (v : Imm) : Statement (.oraImm v) :=
  ⟨_, _, _, rfl, rfl, _, rfl, rfl, fun _ _ => rfl⟩
theorem aslAcc : Statement .aslAcc :=
  ⟨_, _, _, rfl, rfl, rfl, rfl⟩
theorem phd : Statement .phd :=
  ⟨_, _, _, rfl, rfl, rfl, rfl⟩
theorem tsbAbs (a : Word) : Statement (.tsbAbs a) :=
  ⟨_, _, _, rfl, rfl, _, rfl, rfl⟩
theorem oraAbs (a : Word) : Statement (.oraAbs a) :=
  ⟨_, _, _, rfl, rfl, _, rfl, rfl⟩
theorem aslAbs (a : Word) : Statement (.aslAbs a) :=
  ⟨_, _, _, rfl, rfl, _, rfl, rfl⟩
theorem oraLong (a : Addr) : Statement (.oraLong a) :=
  ⟨_, _, _, rfl, rfl, _, rfl, rfl⟩
theorem bpl (disp : Byte) : Statement (.bpl disp) :=
  ⟨_, _, _, rfl, rfl, _, rfl, rfl⟩
theorem oraDirIndY (off : Byte) : Statement (.oraDirIndY off) :=
  ⟨_, _, _, rfl, rfl, _, rfl, rfl⟩
theorem oraDirInd (off : Byte) : Statement (.oraDirInd off) :=
  ⟨_, _, _, rfl, rfl, _, rfl, rfl⟩
theorem oraStkIndY (off : Byte) : Statement (.oraStkIndY off) :=
  ⟨_, _, _, rfl, rfl, _, rfl, rfl⟩
theorem trbDir (off : Byte) : Statement (.trbDir off) :=
  ⟨_, _, _, rfl, rfl, _, rfl, rfl⟩
theorem oraDirX (off : Byte) : Statement (.oraDirX off) :=
  ⟨_, _, _, rfl, rfl, _, rfl, rfl⟩
theorem aslDirX (off : Byte) : Statement (.aslDirX off) :=
  ⟨_, _, _, rfl, rfl, _, rfl, rfl⟩
theorem oraDirLongY (off : Byte) : Statement (.oraDirLongY off) :=
  ⟨_, _, _, rfl, rfl, _, rfl, rfl⟩
theorem clc : Statement .clc :=
  ⟨_, _, _, rfl, rfl, rfl, rfl⟩
theorem oraAbsY (a : Word) : Statement (.oraAbsY a) :=
  ⟨_, _, _, rfl, rfl, _, rfl, rfl⟩
theorem incAcc : Statement .incAcc :=
  ⟨_, _, _, rfl, rfl, rfl, rfl⟩
theorem tcs : Statement .tcs :=
  ⟨_, _, _, rfl, rfl, rfl, rfl⟩
theorem trbAbs (a : Word) : Statement (.trbAbs a) :=
  ⟨_, _, _, rfl, rfl, _, rfl, rfl⟩
theorem oraAbsX (a : Word) : Statement (.oraAbsX a) :=
  ⟨_, _, _, rfl, rfl, _, rfl, rfl⟩
theorem aslAbsX (a : Word) : Statement (.aslAbsX a) :=
  ⟨_, _, _, rfl, rfl, _, rfl, rfl⟩
theorem oraLongX (a : Addr) : Statement (.oraLongX a) :=
  ⟨_, _, _, rfl, rfl, _, rfl, rfl⟩
theorem jsrAbs (a : Word) : Statement (.jsrAbs a) :=
  ⟨_, _, _, rfl, rfl, _, rfl, rfl⟩
theorem andDirXInd (off : Byte) : Statement (.andDirXInd off) :=
  ⟨_, _, _, rfl, rfl, _, rfl, rfl⟩
theorem jslLong (a : Addr) : Statement (.jslLong a) :=
  ⟨_, _, _, rfl, rfl, _, rfl, rfl⟩
theorem andStk (off : Byte) : Statement (.andStk off) :=
  ⟨_, _, _, rfl, rfl, _, rfl, rfl⟩
theorem bitDir (off : Byte) : Statement (.bitDir off) :=
  ⟨_, _, _, rfl, rfl, _, rfl, rfl⟩
theorem andDir (off : Byte) : Statement (.andDir off) :=
  ⟨_, _, _, rfl, rfl, _, rfl, rfl⟩
theorem rolDir (off : Byte) : Statement (.rolDir off) :=
  ⟨_, _, _, rfl, rfl, _, rfl, rfl⟩
theorem andDirLong (off : Byte) : Statement (.andDirLong off) :=
  ⟨_, _, _, rfl, rfl, _, rfl, rfl⟩
theorem plp : Statement .plp :=
  ⟨_, _, _, rfl, rfl, rfl, rfl⟩
theorem andImm (v : Imm) : Statement (.andImm v) :=
  ⟨_, _, _, rfl, rfl, _, rfl, rfl, fun _ _ => rfl⟩
theorem rolAcc : Statement .rolAcc :=
  ⟨_, _, _, rfl, rfl, rfl, rfl⟩
theorem pld : Statement .pld :=
  ⟨_, _, _, rfl, rfl, rfl, rfl⟩
theorem bitAbs (a : Word) : Statement (.bitAbs a) :=
  ⟨_, _, _, rfl, rfl, _, rfl, rfl⟩
theorem andAbs (a : Word) : Statement (.andAbs a) :=
  ⟨_, _, _, rfl, rfl, _, rfl, rfl⟩
theorem rolAbs (a : Word) : Statement (.rolAbs a) :=
  ⟨_, _, _, rfl, rfl, _, rfl, rfl⟩
theorem andLong (a : Addr) : Statement (.andLong a) :=
  ⟨_, _, _, rfl, rfl, _, rfl, rfl⟩
theorem bmi (disp : Byte) : Statement (.bmi disp) :=
  ⟨_, _, _, rfl, rfl, _, rfl, rfl⟩
theorem andDirIndY (off : Byte) : Statement (.andDirIndY off) :=
  ⟨_, _, _, rfl, rfl, _, rfl, rfl⟩
theorem andDirInd (off : Byte) : Statement (.andDirInd off) :=
  ⟨_, _, _, rfl, rfl, _, rfl, rfl⟩
theorem andStkIndY (off : Byte) : Statement (.andStkIndY off) :=
  ⟨_, _, _, rfl, rfl, _, rfl, rfl⟩
theorem bitDirX (off : Byte) : Statement (.bitDirX off) :=
  ⟨_, _, _, rfl, rfl, _, rfl, rfl⟩
theorem andDirX (off : Byte) : Statement (.andDirX off) :=
  ⟨_, _, _, rfl, rfl, _, rfl, rfl⟩
theorem rolDirX (off : Byte) : Statement (.rolDirX off) :=
  ⟨_, _, _, rfl, rfl, _, rfl, rfl⟩
theorem andDirLongY (off : Byte) : Statement (.andDirLongY off) :=
  ⟨_, _, _, rfl, rfl, _, rfl, rfl⟩
theorem sec : Statement .sec :=
  ⟨_, _, _, rfl, rfl, rfl, rfl⟩
theorem andAbsY (a : Word) : Statement (.andAbsY a) :=
  ⟨_, _, _, rfl, rfl, _, rfl, rfl⟩
theorem decAcc : Statement .decAcc :=
  ⟨_, _, _, rfl, rfl, rfl, rfl⟩
theorem tsc : Statement .tsc :=
  ⟨_, _, _, rfl, rfl, rfl, rfl⟩
theorem bitAbsX (a : Word) : Statement (.bitAbsX a) :=
  ⟨_, _, _, rfl, rfl, _, rfl, rfl⟩
theorem andAbsX (a : Word) : Statement (.andAbsX a) :=
  ⟨_, _, _, rfl, rfl, _, rfl, rfl⟩
theorem rolAbsX (a : Word) : Statement (.rolAbsX a) :=
  ⟨_, _, _, rfl, rfl, _, rfl, rfl⟩
theorem andLongX (a : Addr) : Statement (.andLongX a) :=
  ⟨_, _, _, rfl, rfl, _, rfl, rfl⟩
theorem rti : Statement .rti :=
  ⟨_, _, _, rfl, rfl, rfl, rfl⟩
theorem eorDirXInd (off : Byte) : Statement (.eorDirXInd off) :=
  ⟨_, _, _, rfl, rfl, _, rfl, rfl⟩
theorem wdm (ignored : Byte) : Statement (.wdm ignored) :=
  ⟨_, _, _, rfl, rfl, _, rfl, rfl⟩
theorem eorStk (off : Byte) : Statement (.eorStk off) :=
  ⟨_, _, _, rfl, rfl, _, rfl, rfl⟩
theorem mvp (dst : Byte) (src : Byte) : Statement (.mvp dst src) :=
  ⟨_, _, _, rfl, rfl, _, _, rfl, rfl⟩
theorem eorDir (off : Byte) : Statement (.eorDir off) :=
  ⟨_, _, _, rfl, rfl, _, rfl, rfl⟩
theorem lsrDir (off : Byte) : Statement (.lsrDir off) :=
  ⟨_, _, _, rfl, rfl, _, rfl, rfl⟩
theorem eorDirLong (off : Byte) : Statement (.eorDirLong off) :=
  ⟨_, _, _, rfl, rfl, _, rfl, rfl⟩
theorem pha : Statement .pha :=
  ⟨_, _, _, rfl, rfl, rfl, rfl⟩
theorem eorImm (v : Imm) : Statement (.eorImm v) :=
  ⟨_, _, _, rfl, rfl, _, rfl, rfl, fun _ _ => rfl⟩
theorem lsrAcc : Statement .lsrAcc :=
  ⟨_, _, _, rfl, rfl, rfl, rfl⟩
theorem phk : Statement .phk :=
  ⟨_, _, _, rfl, rfl, rfl, rfl⟩
theorem jmpAbs (a : Word) : Statement (.jmpAbs a) :=
  ⟨_, _, _, rfl, rfl, _, rfl, rfl⟩
theorem eorAbs (a : Word) : Statement (.eorAbs a) :=
  ⟨_, _, _, rfl, rfl, _, rfl, rfl⟩
theorem lsrAbs (a : Word) : Statement (.lsrAbs a) :=
  ⟨_, _, _, rfl, rfl, _, rfl, rfl⟩
theorem eorLong (a : Addr) : Statement (.eorLong a) :=
  ⟨_, _, _, rfl, rfl, _, rfl, rfl⟩
theorem bvc (disp : Byte) : Statement (.bvc disp) :=
  ⟨_, _, _, rfl, rfl, _, rfl, rfl⟩
theorem eorDirIndY (off : Byte) : Statement (.eorDirIndY off) :=
  ⟨_, _, _, rfl, rfl, _, rfl, rfl⟩
theorem eorDirInd (off : Byte) : Statement (.eorDirInd off) :=
  ⟨_, _, _, rfl, rfl, _, rfl, rfl⟩
theorem eorStkIndY (off : Byte) : Statement (.eorStkIndY off) :=
  ⟨_, _, _, rfl, rfl, _, rfl, rfl⟩
theorem mvn (dst : Byte) (src : Byte) : Statement (.mvn dst src) :=
  ⟨_, _, _, rfl, rfl, _, _, rfl, rfl⟩
theorem eorDirX (off : Byte) : Statement (.eorDirX off) :=
  ⟨_, _, _, rfl, rfl, _, rfl, rfl⟩
theorem lsrDirX (off : Byte) : Statement (.lsrDirX off) :=
  ⟨_, _, _, rfl, rfl, _, rfl, rfl⟩
theorem eorDirLongY (off : Byte) : Statement (.eorDirLongY off) :=
  ⟨_, _, _, rfl, rfl, _, rfl, rfl⟩
theorem cli : Statement .cli :=
  ⟨_, _, _, rfl, rfl, rfl, rfl⟩
theorem eorAbsY (a : Word) : Statement (.eorAbsY a) :=
  ⟨_, _, _, rfl, rfl, _, rfl, rfl⟩
theorem phy : Statement .phy :=
  ⟨_, _, _, rfl, rfl, rfl, rfl⟩
theorem tcd : Statement .tcd :=
  ⟨_, _, _, rfl, rfl, rfl, rfl⟩
theorem jmpLong (a : Addr) : Statement (.jmpLong a) :=
  ⟨_, _, _, rfl, rfl, _, rfl, rfl⟩
theorem eorAbsX (a : Word) : Statement (.eorAbsX a) :=
  ⟨_, _, _, rfl, rfl, _, rfl, rfl⟩
theorem lsrAbsX (a : Word) : Statement (.lsrAbsX a) :=
  ⟨_, _, _, rfl, rfl, _, rfl, rfl⟩
theorem eorLongX (a : Addr) : Statement (.eorLongX a) :=
  ⟨_, _, _, rfl, rfl, _, rfl, rfl⟩
theorem rts : Statement .rts :=
  ⟨_, _, _, rfl, rfl, rfl, rfl⟩
theorem adcDirXInd (off : Byte) : Statement (.adcDirXInd off) :=
  ⟨_, _, _, rfl, rfl, _, rfl, rfl⟩
theorem per (disp : Word) : Statement (.per disp) :=
  ⟨_, _, _, rfl, rfl, _, rfl, rfl⟩
theorem adcStk (off : Byte) : Statement (.adcStk off) :=
  ⟨_, _, _, rfl, rfl, _, rfl, rfl⟩
theorem stzDir (off : Byte) : Statement (.stzDir off) :=
  ⟨_, _, _, rfl, rfl, _, rfl, rfl⟩
theorem adcDir (off : Byte) : Statement (.adcDir off) :=
  ⟨_, _, _, rfl, rfl, _, rfl, rfl⟩
theorem rorDir (off : Byte) : Statement (.rorDir off) :=
  ⟨_, _, _, rfl, rfl, _, rfl, rfl⟩
theorem adcDirLong (off : Byte) : Statement (.adcDirLong off) :=
  ⟨_, _, _, rfl, rfl, _, rfl, rfl⟩
theorem pla : Statement .pla :=
  ⟨_, _, _, rfl, rfl, rfl, rfl⟩
theorem adcImm (v : Imm) : Statement (.adcImm v) :=
  ⟨_, _, _, rfl, rfl, _, rfl, rfl, fun _ _ => rfl⟩
theorem rorAcc : Statement .rorAcc :=
  ⟨_, _, _, rfl, rfl, rfl, rfl⟩
theorem rtl : Statement .rtl :=
  ⟨_, _, _, rfl, rfl, rfl, rfl⟩
theorem jmpAbsInd (a : Word) : Statement (.jmpAbsInd a) :=
  ⟨_, _, _, rfl, rfl, _, rfl, rfl⟩
theorem adcAbs (a : Word) : Statement (.adcAbs a) :=
  ⟨_, _, _, rfl, rfl, _, rfl, rfl⟩
theorem rorAbs (a : Word) : Statement (.rorAbs a) :=
  ⟨_, _, _, rfl, rfl, _, rfl, rfl⟩
theorem adcLong (a : Addr) : Statement (.adcLong a) :=
  ⟨_, _, _, rfl, rfl, _, rfl, rfl⟩
theorem bvs (disp : Byte) : Statement (.bvs disp) :=
  ⟨_, _, _, rfl, rfl, _, rfl, rfl⟩
theorem adcDirIndY (off : Byte) : Statement (.adcDirIndY off) :=
  ⟨_, _, _, rfl, rfl, _, rfl, rfl⟩
theorem adcDirInd (off : Byte) : Statement (.adcDirInd off) :=
  ⟨_, _, _, rfl, rfl, _, rfl, rfl⟩
theorem adcStkIndY (off : Byte) : Statement (.adcStkIndY off) :=
  ⟨_, _, _, rfl, rfl, _, rfl, rfl⟩
theorem stzDirX (off : Byte) : Statement (.stzDirX off) :=
  ⟨_, _, _, rfl, rfl, _, rfl, rfl⟩
theorem adcDirX (off : Byte) : Statement (.adcDirX off) :=
  ⟨_, _, _, rfl, rfl, _, rfl, rfl⟩
theorem rorDirX (off : Byte) : Statement (.rorDirX off) :=
  ⟨_, _, _, rfl, rfl, _, rfl, rfl⟩
theorem adcDirLongY (off : Byte) : Statement (.adcDirLongY off) :=
  ⟨_, _, _, rfl, rfl, _, rfl, rfl⟩
theorem sei : Statement .sei :=
  ⟨_, _, _, rfl, rfl, rfl, rfl⟩
theorem adcAbsY (a : Word) : Statement (.adcAbsY a) :=
  ⟨_, _, _, rfl, rfl, _, rfl, rfl⟩
theorem ply : Statement .ply :=
  ⟨_, _, _, rfl, rfl, rfl, rfl⟩
theorem tdc : Statement .tdc :=
  ⟨_, _, _, rfl, rfl, rfl, rfl⟩
theorem jmpAbsXInd (a : Word) : Statement (.jmpAbsXInd a) :=
  ⟨_, _, _, rfl, rfl, _, rfl, rfl⟩
theorem adcAbsX (a : Word) : Statement (.adcAbsX a) :=
  ⟨_, _, _, rfl, rfl, _, rfl, rfl⟩
theorem rorAbsX (a : Word) : Statement (.rorAbsX a) :=
  ⟨_, _, _, rfl, rfl, _, rfl, rfl⟩
theorem adcLongX (a : Addr) : Statement (.adcLongX a) :=
  ⟨_, _, _, rfl, rfl, _, rfl, rfl⟩
theorem bra (disp : Byte) : Statement (.bra disp) :=
  ⟨_, _, _, rfl, rfl, _, rfl, rfl⟩
theorem staDirXInd (off : Byte) : Statement (.staDirXInd off) :=
  ⟨_, _, _, rfl, rfl, _, rfl, rfl⟩
theorem brl (disp : Word) : Statement (.brl disp) :=
  ⟨_, _, _, rfl, rfl, _, rfl, rfl⟩
theorem staStk (off : Byte) : Statement (.staStk off) :=
  ⟨_, _, _, rfl, rfl, _, rfl, rfl⟩
theorem styDir (off : Byte) : Statement (.styDir off) :=
  ⟨_, _, _, rfl, rfl, _, rfl, rfl⟩
theorem staDir (off : Byte) : Statement (.staDir off) :=
  ⟨_, _, _, rfl, rfl, _, rfl, rfl⟩
theorem stxDir (off : Byte) : Statement (.stxDir off) :=
  ⟨_, _, _, rfl, rfl, _, rfl, rfl⟩
theorem staDirLong (off : Byte) : Statement (.staDirLong off) :=
  ⟨_, _, _, rfl, rfl, _, rfl, rfl⟩
theorem dey : Statement .dey :=
  ⟨_, _, _, rfl, rfl, rfl, rfl⟩
theorem bitImm (v : Imm) : Statement (.bitImm v) :=
  ⟨_, _, _, rfl, rfl, _, rfl, rfl, fun _ _ => rfl⟩
theorem txa : Statement .txa :=
  ⟨_, _, _, rfl, rfl, rfl, rfl⟩
theorem phb : Statement .phb :=
  ⟨_, _, _, rfl, rfl, rfl, rfl⟩
theorem styAbs (a : Word) : Statement (.styAbs a) :=
  ⟨_, _, _, rfl, rfl, _, rfl, rfl⟩
theorem staAbs (a : Word) : Statement (.staAbs a) :=
  ⟨_, _, _, rfl, rfl, _, rfl, rfl⟩
theorem stxAbs (a : Word) : Statement (.stxAbs a) :=
  ⟨_, _, _, rfl, rfl, _, rfl, rfl⟩
theorem staLong (a : Addr) : Statement (.staLong a) :=
  ⟨_, _, _, rfl, rfl, _, rfl, rfl⟩
theorem bcc (disp : Byte) : Statement (.bcc disp) :=
  ⟨_, _, _, rfl, rfl, _, rfl, rfl⟩
theorem staDirIndY (off : Byte) : Statement (.staDirIndY off) :=
  ⟨_, _, _, rfl, rfl, _, rfl, rfl⟩
theorem staDirInd (off : Byte) : Statement (.staDirInd off) :=
  ⟨_, _, _, rfl, rfl, _, rfl, rfl⟩
theorem staStkIndY (off : Byte) : Statement (.staStkIndY off) :=
  ⟨_, _, _, rfl, rfl, _, rfl, rfl⟩
theorem styDirX (off : Byte) : Statement (.styDirX off) :=
  ⟨_, _, _, rfl, rfl, _, rfl, rfl⟩
theorem staDirX (off : Byte) : Statement (.staDirX off) :=
  ⟨_, _, _, rfl, rfl, _, rfl, rfl⟩
theorem stxDirY (off : Byte) : Statement (.stxDirY off) :=
  ⟨_, _, _, rfl, rfl, _, rfl, rfl⟩
theorem staDirLongY (off : Byte) : Statement (.staDirLongY off) :=
  ⟨_, _, _, rfl, rfl, _, rfl, rfl⟩
theorem tya : Statement .tya :=
  ⟨_, _, _, rfl, rfl, rfl, rfl⟩
theorem staAbsY (a : Word) : Statement (.staAbsY a) :=
  ⟨_, _, _, rfl, rfl, _, rfl, rfl⟩
theorem txs : Statement .txs :=
  ⟨_, _, _, rfl, rfl, rfl, rfl⟩
theorem txy : Statement .txy :=
  ⟨_, _, _, rfl, rfl, rfl, rfl⟩
theorem stzAbs (a : Word) : Statement (.stzAbs a) :=
  ⟨_, _, _, rfl, rfl, _, rfl, rfl⟩
theorem staAbsX (a : Word) : Statement (.staAbsX a) :=
  ⟨_, _, _, rfl, rfl, _, rfl, rfl⟩
theorem stzAbsX (a : Word) : Statement (.stzAbsX a) :=
  ⟨_, _, _, rfl, rfl, _, rfl, rfl⟩
theorem staLongX (a : Addr) : Statement (.staLongX a) :=
  ⟨_, _, _, rfl, rfl, _, rfl, rfl⟩
theorem ldyImm (v : Imm) : Statement (.ldyImm v) :=
  ⟨_, _, _, rfl, rfl, _, rfl, rfl, fun _ _ => rfl⟩
theorem ldaDirXInd (off : Byte) : Statement (.ldaDirXInd off) :=
  ⟨_, _, _, rfl, rfl, _, rfl, rfl⟩
theorem ldxImm (v : Imm) : Statement (.ldxImm v) :=
  ⟨_, _, _, rfl, rfl, _, rfl, rfl, fun _ _ => rfl⟩
theorem ldaStk (off : Byte) : Statement (.ldaStk off) :=
  ⟨_, _, _, rfl, rfl, _, rfl, rfl⟩
theorem ldyDir (off : Byte) : Statement (.ldyDir off) :=
  ⟨_, _, _, rfl, rfl, _, rfl, rfl⟩
theorem ldaDir (off : Byte) : Statement (.ldaDir off) :=
  ⟨_, _, _, rfl, rfl, _, rfl, rfl⟩
theorem ldxDir (off : Byte) : Statement (.ldxDir off) :=
  ⟨_, _, _, rfl, rfl, _, rfl, rfl⟩
theorem ldaDirLong (off : Byte) : Statement (.ldaDirLong off) :=
  ⟨_, _, _, rfl, rfl, _, rfl, rfl⟩
theorem tay : Statement .tay :=
  ⟨_, _, _, rfl, rfl, rfl, rfl⟩
theorem ldaImm (v : Imm) : Statement (.ldaImm v) :=
  ⟨_, _, _, rfl, rfl, _, rfl, rfl, fun _ _ => rfl⟩
theorem tax : Statement .tax :=
  ⟨_, _, _, rfl, rfl, rfl, rfl⟩
theorem plb : Statement .plb :=
  ⟨_, _, _, rfl, rfl, rfl, rfl⟩
theorem ldyAbs (a : Word) : Statement (.ldyAbs a) :=
  ⟨_, _, _, rfl, rfl, _, rfl, rfl⟩
theorem ldaAbs (a : Word) : Statement (.ldaAbs a) :=
  ⟨_, _, _, rfl, rfl, _, rfl, rfl⟩
theorem ldxAbs (a : Word) : Statement (.ldxAbs a) :=
  ⟨_, _, _, rfl, rfl, _, rfl, rfl⟩
theorem ldaLong (a : Addr) : Statement (.ldaLong a) :=
  ⟨_, _, _, rfl, rfl, _, rfl, rfl⟩
theorem bcs (disp : Byte) : Statement (.bcs disp) :=
  ⟨_, _, _, rfl, rfl, _, rfl, rfl⟩
theorem ldaDirIndY (off : Byte) : Statement (.ldaDirIndY off) :=
  ⟨_, _, _, rfl, rfl, _, rfl, rfl⟩
theorem ldaDirInd (off : Byte) : Statement (.ldaDirInd off) :=
  ⟨_, _, _, rfl, rfl, _, rfl, rfl⟩
theorem ldaStkIndY (off : Byte) : Statement (.ldaStkIndY off) :=
  ⟨_, _, _, rfl, rfl, _, rfl, rfl⟩
theorem ldyDirX (off : Byte) : Statement (.ldyDirX off) :=
  ⟨_, _, _, rfl, rfl, _, rfl, rfl⟩
theorem ldaDirX (off : Byte) : Statement (.ldaDirX off) :=
  ⟨_, _, _, rfl, rfl, _, rfl, rfl⟩
theorem ldxDirY (off : Byte) : Statement (.ldxDirY off) :=
  ⟨_, _, _, rfl, rfl, _, rfl, rfl⟩
theorem ldaDirLongY (off : Byte) : Statement (.ldaDirLongY off) :=
  ⟨_, _, _, rfl, rfl, _, rfl, rfl⟩
theorem clv : Statement .clv :=
  ⟨_, _, _, rfl, rfl, rfl, rfl⟩
theorem ldaAbsY (a : Word) : Statement (.ldaAbsY a) :=
  ⟨_, _, _, rfl, rfl, _, rfl, rfl⟩
theorem tsx : Statement .tsx :=
  ⟨_, _, _, rfl, rfl, rfl, rfl⟩
theorem tyx : Statement .tyx :=
  ⟨_, _, _, rfl, rfl, rfl, rfl⟩
theorem ldyAbsX (a : Word) : Statement (.ldyAbsX a) :=
  ⟨_, _, _, rfl, rfl, _, rfl, rfl⟩
theorem ldaAbsX (a : Word) : Statement (.ldaAbsX a) :=
  ⟨_, _, _, rfl, rfl, _, rfl, rfl⟩
theorem ldxAbsY (a : Word) : Statement (.ldxAbsY a) :=
  ⟨_, _, _, rfl, rfl, _, rfl, rfl⟩
theorem ldaLongX (a : Addr) : Statement (.ldaLongX a) :=
  ⟨_, _, _, rfl, rfl, _, rfl, rfl⟩
theorem cpyImm (v : Imm) : Statement (.cpyImm v) :=
  ⟨_, _, _, rfl, rfl, _, rfl, rfl, fun _ _ => rfl⟩
theorem cmpDirXInd (off : Byte) : Statement (.cmpDirXInd off) :=
  ⟨_, _, _, rfl, rfl, _, rfl, rfl⟩
theorem repImm (v : Byte) : Statement (.repImm v) :=
  ⟨_, _, _, rfl, rfl, _, rfl, rfl⟩
theorem cmpStk (off : Byte) : Statement (.cmpStk off) :=
  ⟨_, _, _, rfl, rfl, _, rfl, rfl⟩
theorem cpyDir (off : Byte) : Statement (.cpyDir off) :=
  ⟨_, _, _, rfl, rfl, _, rfl, rfl⟩
theorem cmpDir (off : Byte) : Statement (.cmpDir off) :=
  ⟨_, _, _, rfl, rfl, _, rfl, rfl⟩
theorem decDir (off : Byte) : Statement (.decDir off) :=
  ⟨_, _, _, rfl, rfl, _, rfl, rfl⟩
theorem cmpDirLong (off : Byte) : Statement (.cmpDirLong off) :=
  ⟨_, _, _, rfl, rfl, _, rfl, rfl⟩
theorem iny : Statement .iny :=
  ⟨_, _, _, rfl, rfl, rfl, rfl⟩
theorem cmpImm (v : Imm) : Statement (.cmpImm v) :=
  ⟨_, _, _, rfl, rfl, _, rfl, rfl, fun _ _ => rfl⟩
theorem dex : Statement .dex :=
  ⟨_, _, _, rfl, rfl, rfl, rfl⟩
theorem wai : Statement .wai :=
  ⟨_, _, _, rfl, rfl, rfl, rfl⟩
theorem cpyAbs (a : Word) : Statement (.cpyAbs a) :=
  ⟨_, _, _, rfl, rfl, _, rfl, rfl⟩
theorem cmpAbs (a : Word) : Statement (.cmpAbs a) :=
  ⟨_, _, _, rfl, rfl, _, rfl, rfl⟩
theorem decAbs (a : Word) : Statement (.decAbs a) :=
  ⟨_, _, _, rfl, rfl, _, rfl, rfl⟩
theorem cmpLong (a : Addr) : Statement (.cmpLong a) :=
  ⟨_, _, _, rfl, rfl, _, rfl, rfl⟩
theorem bne (disp : Byte) : Statement (.bne disp) :=
  ⟨_, _, _, rfl, rfl, _, rfl, rfl⟩
theorem cmpDirIndY (off : Byte) : Statement (.cmpDirIndY off) :=
  ⟨_, _, _, rfl, rfl, _, rfl, rfl⟩
theorem cmpDirInd (off : Byte) : Statement (.cmpDirInd off) :=
  ⟨_, _, _, rfl, rfl, _, rfl, rfl⟩
theorem cmpStkIndY (off : Byte) : Statement (.cmpStkIndY off) :=
  ⟨_, _, _, rfl, rfl, _, rfl, rfl⟩
theorem pei (off : Byte) : Statement (.pei off) :=
  ⟨_, _, _, rfl, rfl, _, rfl, rfl⟩
theorem cmpDirX (off : Byte) : Statement (.cmpDirX off) :=
  ⟨_, _, _, rfl, rfl, _, rfl, rfl⟩
theorem decDirX (off : Byte) : Statement (.decDirX off) :=
  ⟨_, _, _, rfl, rfl, _, rfl, rfl⟩
theorem cmpDirLongY (off : Byte) : Statement (.cmpDirLongY off) :=
  ⟨_, _, _, rfl, rfl, _, rfl, rfl⟩
theorem cld : Statement .cld :=
  ⟨_, _, _, rfl, rfl, rfl, rfl⟩
theorem cmpAbsY (a : Word) : Statement (.cmpAbsY a) :=
  ⟨_, _, _, rfl, rfl, _, rfl, rfl⟩
theorem phx : Statement .phx :=
  ⟨_, _, _, rfl, rfl, rfl, rfl⟩
theorem stp : Statement .stp :=
  ⟨_, _, _, rfl, rfl, rfl, rfl⟩
theorem jmlAbsInd (a : Word) : Statement (.jmlAbsInd a) :=
  ⟨_, _, _, rfl, rfl, _, rfl, rfl⟩
theorem cmpAbsX (a : Word) : Statement (.cmpAbsX a) :=
  ⟨_, _, _, rfl, rfl, _, rfl, rfl⟩
theorem decAbsX (a : Word) : Statement (.decAbsX a) :=
  ⟨_, _, _, rfl, rfl, _, rfl, rfl⟩
theorem cmpLongX (a : Addr) : Statement (.cmpLongX a) :=
  ⟨_, _, _, rfl, rfl, _, rfl, rfl⟩
theorem cpxImm (v : Imm) : Statement (.cpxImm v) :=
  ⟨_, _, _, rfl, rfl, _, rfl, rfl, fun _ _ => rfl⟩
theorem sbcDirXInd (off : Byte) : Statement (.sbcDirXInd off) :=
  ⟨_, _, _, rfl, rfl, _, rfl, rfl⟩
theorem sepImm (v : Byte) : Statement (.sepImm v) :=
  ⟨_, _, _, rfl, rfl, _, rfl, rfl⟩
theorem sbcStk (off : Byte) : Statement (.sbcStk off) :=
  ⟨_, _, _, rfl, rfl, _, rfl, rfl⟩
theorem cpxDir (off : Byte) : Statement (.cpxDir off) :=
  ⟨_, _, _, rfl, rfl, _, rfl, rfl⟩
theorem sbcDir (off : Byte) : Statement (.sbcDir off) :=
  ⟨_, _, _, rfl, rfl, _, rfl, rfl⟩
theorem incDir (off : Byte) : Statement (.incDir off) :=
  ⟨_, _, _, rfl, rfl, _, rfl, rfl⟩
theorem sbcDirLong (off : Byte) : Statement (.sbcDirLong off) :=
  ⟨_, _, _, rfl, rfl, _, rfl, rfl⟩
theorem inx : Statement .inx :=
  ⟨_, _, _, rfl, rfl, rfl, rfl⟩
theorem sbcImm (v : Imm) : Statement (.sbcImm v) :=
  ⟨_, _, _, rfl, rfl, _, rfl, rfl, fun _ _ => rfl⟩
theorem nop : Statement .nop :=
  ⟨_, _, _, rfl, rfl, rfl, rfl⟩
theorem xba : Statement .xba :=
  ⟨_, _, _, rfl, rfl, rfl, rfl⟩
theorem cpxAbs (a : Word) : Statement (.cpxAbs a) :=
  ⟨_, _, _, rfl, rfl, _, rfl, rfl⟩
theorem sbcAbs (a : Word) : Statement (.sbcAbs a) :=
  ⟨_, _, _, rfl, rfl, _, rfl, rfl⟩
theorem incAbs (a : Word) : Statement (.incAbs a) :=
  ⟨_, _, _, rfl, rfl, _, rfl, rfl⟩
theorem sbcLong (a : Addr) : Statement (.sbcLong a) :=
  ⟨_, _, _, rfl, rfl, _, rfl, rfl⟩
theorem beq (disp : Byte) : Statement (.beq disp) :=
  ⟨_, _, _, rfl, rfl, _, rfl, rfl⟩
theorem sbcDirIndY (off : Byte) : Statement (.sbcDirIndY off) :=
  ⟨_, _, _, rfl, rfl, _, rfl, rfl⟩
theorem sbcDirInd (off : Byte) : Statement (.sbcDirInd off) :=
  ⟨_, _, _, rfl, rfl, _, rfl, rfl⟩
theorem sbcStkIndY (off : Byte) : Statement (.sbcStkIndY off) :=
  ⟨_, _, _, rfl, rfl, _, rfl, rfl⟩
theorem pea (v : Word) : Statement (.pea v) :=
  ⟨_, _, _, rfl, rfl, _, rfl, rfl⟩
theorem sbcDirX (off : Byte) : Statement (.sbcDirX off) :=
  ⟨_, _, _, rfl, rfl, _, rfl, rfl⟩
theorem incDirX (off : Byte) : Statement (.incDirX off) :=
  ⟨_, _, _, rfl, rfl, _, rfl, rfl⟩
theorem sbcDirLongY (off : Byte) : Statement (.sbcDirLongY off) :=
  ⟨_, _, _, rfl, rfl, _, rfl, rfl⟩
theorem sed : Statement .sed :=
  ⟨_, _, _, rfl, rfl, rfl, rfl⟩
theorem sbcAbsY (a : Word) : Statement (.sbcAbsY a) :=
  ⟨_, _, _, rfl, rfl, _, rfl, rfl⟩
theorem plx : Statement .plx :=
  ⟨_, _, _, rfl, rfl, rfl, rfl⟩
theorem xce : Statement .xce :=
  ⟨_, _, _, rfl, rfl, rfl, rfl⟩
theorem jsrAbsXInd (a : Word) : Statement (.jsrAbsXInd a) :=
  ⟨_, _, _, rfl, rfl, _, rfl, rfl⟩
theorem sbcAbsX (a : Word) : Statement (.sbcAbsX a) :=
  ⟨_, _, _, rfl, rfl, _, rfl, rfl⟩
theorem incAbsX (a : Word) : Statement (.incAbsX a) :=
  ⟨_, _, _, rfl, rfl, _, rfl, rfl⟩
theorem sbcLongX (a : Addr) : Statement (.sbcLongX a) :=
  ⟨_, _, _, rfl, rfl, _, rfl, rfl⟩

end Sys2Proof.Laws.MatrixCell
end

