-- ==== Sys2Proof/Laws/Step.lean ====
section
/-!
SUPPORT. Once for all what `exec` and `step` can answer, and when an abort changes nothing: every proof
about a whole step starts from these and unfolds neither.
-/

namespace Sys2Proof.Machine

/-- Every instruction completes in every state (R12, R400). -/
theorem exec_completes (i : Instr) (s : State) : ∃ t, exec i s = .next t := by
  cases i <;> exact ⟨_, rfl⟩

/-! ### Aborts -/

/-- Without an abort input and without rejected addresses no access is rejected. -/
theorem State.rejects_none (t : State) (h : t.abortRanges = []) (a : BusAccess) : t.rejects a = false := by
  simp [State.rejects, h]

/-- Where nothing aborts a step, its end is as it is. -/
theorem State.settle_none (before t : State) (cls : AbortClass) (pin : AbortInput) (h : t.abortRanges = [])
    (h1 : pin ≠ .early) (h2 : pin ≠ .late) : before.settle cls pin t = t := by
  have : t.bus.find? t.rejects = none := by
    rw [List.find?_eq_none]; intro a _; simp [t.rejects_none h a]
  simp [State.settle, State.abortTime, this, h1, h2]

/-- The ways a step ends (R420, R421, R435): as it is; waiting or stopped with the latch set; with the
registers restored; with the registers restored but for the updates of a late abort. -/
theorem State.settle_cases (before t : State) (cls : AbortClass) (pin : AbortInput) :
    before.settle cls pin t = t ∧ t.abortTime cls pin = none ∨
    before.settle cls pin t = { t with abortPending := true } ∧ (t.waiting || t.stopped) = true ∨
    before.settle cls pin t = before.restored t ∨
    before.settle cls pin t = lateUpdate cls t (before.restored t) := by
  cases h : t.abortTime cls pin with
  | none => exact .inl ⟨by simp [State.settle, h], rfl⟩
  | some late =>
    by_cases hw : (t.waiting || t.stopped) = true
    · exact .inr (.inl ⟨by simp only [State.settle, h, hw, if_true], hw⟩)
    · cases late
      · exact .inr (.inr (.inl (by simp [State.settle, h, hw])))
      · exact .inr (.inr (.inr (by simp [State.settle, h, hw])))

/-- An ABORT- in time, said by `abortTime`. -/
theorem State.AbortsInTime.time {s r : State} {cls : AbortClass} (h : s.AbortsInTime r cls)
    (hr : r.rejects = s.present.rejects) : r.abortTime cls s.abortPin = some false := by
  refine if_pos (h.imp id ?_)
  rintro ⟨a, ha, hl⟩
  simp [hr, ha, hl]

/-- A late ABORT-, said by `abortTime`. -/
theorem State.AbortsLate.time {s r : State} {cls : AbortClass} (h : s.AbortsLate r cls)
    (hr : r.rejects = s.present.rejects) : r.abortTime cls s.abortPin = some true := by
  obtain ⟨hn, hl⟩ := h
  have h1 : s.abortPin ≠ .early := fun h => hn (.inl h)
  simp only [State.abortTime, hr]
  cases hf : r.bus.find? s.present.rejects with
  | none =>
    rcases hl with hl | ⟨a, ha⟩
    · simp [hl]
    · rw [hf] at ha; cases ha
  | some a =>
    have : lateAccess cls a.kind = true := by
      by_contra h; exact hn (.inr ⟨a, hf, by simpa using h⟩)
    simp [h1, this]

/-- A late access that is the first one rejected aborts late. -/
theorem State.AbortsLate.of_access {s r : State} {cls : AbortClass} (a : BusAccess)
    (hf : r.bus.find? s.present.rejects = some a) (hl : lateAccess cls a.kind = true) (hp : s.abortPin ≠ .early) :
    s.AbortsLate r cls := by
  refine ⟨?_, .inr ⟨a, hf⟩⟩
  rintro (h | ⟨b, hb, hk⟩)
  · exact hp h
  · obtain rfl := Option.some.inj (hf.symm.trans hb)
    rw [hl] at hk; cases hk

/-! ### The inputs of a boundary -/

/-- What the inputs of a boundary can change (D2): levels, latches, P on the W65C802, memory, the inputs to
come, the platform's answers, with ABORT- or without; the bus record starts empty. -/
theorem State.present_eq (s : State) :
    s.present = { s with
      resLow := s.present.resLow, irqLow := s.present.irqLow, rdyForcedHigh := s.present.rdyForcedHigh
      nmiPending := s.present.nmiPending, abortPending := s.present.abortPending, p := s.present.p
      mem := s.present.mem, inputs := s.present.inputs, answers := s.present.answers
      abortRanges := s.present.abortRanges, bus := [] } := by
  unfold State.present; split <;> rfl

@[simp] theorem State.present_cfg (s : State) : s.present.cfg = s.cfg := by
  unfold State.present; split <;> rfl
@[simp] theorem State.present_bus (s : State) : s.present.bus = [] := by
  unfold State.present; split <;> rfl
@[simp] theorem State.present_owned (s : State) : s.present.owned = s.owned := by
  unfold State.present; split <;> rfl

/-! ### The step -/

/-- Everything a step can do (R403): hold in reset, leave reset, stay stopped, go on waiting, take one of
the hardware interrupts, or run one instruction. -/
theorem step_cases (s t : State) (h : step s = .next t) :
    let u := s.present
    let v : State := { u with waiting := false }
    u.resLow = true ∧ t = u.holdReset ∨
    u.resLow = false ∧ u.inReset = true ∧ t = u.resetSequence ∨
    u.resLow = false ∧ u.inReset = false ∧ u.stopped = true ∧ t = u ∨
    u.resLow = false ∧ u.inReset = false ∧ u.stopped = false ∧ u.waiting = true ∧ u.wakes = false ∧
      t = u.latchAbort s.abortPin ∨
    u.Running ∧ (
      v.abortPending = true ∧ v.cfg.variant = .w65c816 ∧
        t = State.takeInterrupt { v with abortPending := false } .abort (v.abortReturn u.waiting) s.abortPin ∨
      v.NoAbortPending ∧ v.nmiPending = true ∧
        t = State.takeInterrupt { v with nmiPending := false } .nmi v.pc s.abortPin ∨
      v.NoAbortPending ∧ v.nmiPending = false ∧ v.irqLow = true ∧ getFlag v.p .i = false ∧
        t = v.takeInterrupt .irq v.pc s.abortPin ∨
      v.NoAbortPending ∧ v.nmiPending = false ∧ (v.irqLow = true → getFlag v.p .i = true) ∧
        ∃ i rest r, v.decoded = .ok (i, rest) ∧ exec i (v.noteFetch i) = .next r ∧
          t = v.settle (abortClass i) s.abortPin r) := by
  intro u v
  have hstep : step s = u.proceed s.abortPin := rfl
  rw [hstep] at h
  simp only [State.proceed] at h
  by_cases h1 : u.resLow = true
  · rw [if_pos h1] at h; exact .inl ⟨h1, (Host.Outcome.next.inj h).symm⟩
  rw [if_neg h1] at h
  have h1 := Bool.eq_false_iff.mpr h1
  by_cases h2 : u.inReset = true
  · rw [if_pos h2] at h; exact .inr (.inl ⟨h1, h2, (Host.Outcome.next.inj h).symm⟩)
  rw [if_neg h2] at h
  have h2 := Bool.eq_false_iff.mpr h2
  by_cases h3 : u.stopped = true
  · rw [if_pos h3] at h; exact .inr (.inr (.inl ⟨h1, h2, h3, (Host.Outcome.next.inj h).symm⟩))
  rw [if_neg h3] at h
  have h3 := Bool.eq_false_iff.mpr h3
  by_cases h4 : (u.waiting && !u.wakes) = true
  · rw [if_pos h4] at h
    simp only [Bool.and_eq_true, Bool.not_eq_true'] at h4
    exact .inr (.inr (.inr (.inl ⟨h1, h2, h3, h4.1, h4.2, (Host.Outcome.next.inj h).symm⟩)))
  rw [if_neg h4] at h
  have h4 : u.waiting = true → u.wakes = true := by
    intro hw; simpa [hw] using h4
  refine .inr (.inr (.inr (.inr ⟨⟨h1, h2, h3, h4⟩, ?_⟩)))
  simp only [State.boundary] at h
  by_cases h5 : v.abortPending = true ∧ v.cfg.variant = .w65c816
  · rw [if_pos h5] at h; exact .inl ⟨h5.1, h5.2, (Host.Outcome.next.inj h).symm⟩
  rw [if_neg h5] at h
  have h5 : v.NoAbortPending := by
    intro ha
    cases hv : v.cfg.variant
    · exact absurd ⟨ha, hv⟩ h5
    · rfl
  by_cases h6 : v.nmiPending = true
  · rw [if_pos h6] at h; exact .inr (.inl ⟨h5, h6, (Host.Outcome.next.inj h).symm⟩)
  rw [if_neg h6] at h
  have h6 := Bool.eq_false_iff.mpr h6
  by_cases h7 : v.irqLow = true ∧ getFlag v.p .i = false
  · rw [if_pos h7] at h; exact .inr (.inr (.inl ⟨h5, h6, h7.1, h7.2, (Host.Outcome.next.inj h).symm⟩))
  rw [if_neg h7] at h
  have h7 : v.irqLow = true → getFlag v.p .i = true := by
    intro hq; simpa [hq] using h7
  refine .inr (.inr (.inr ⟨h5, h6, h7, ?_⟩))
  simp only [State.runInstr] at h
  split at h
  · cases h
  · rename_i r hr
    obtain ⟨t', ht⟩ := exec_completes r.1 (v.noteFetch r.1)
    rw [ht] at h
    exact ⟨r.1, r.2, t', hr, ht, (Host.Outcome.next.inj h).symm⟩

end Sys2Proof.Machine
end

