-- ==== Sys2Proof/Laws/Trace.lean ====
section
/-!
SUPPORT. The bus record tells the whole truth: an instruction changes memory by the writes it puts on the
bus and by nothing else, every access lies in the part's address space, and the platform's fields, the
latches and the parameters are untouched.
-/

namespace Sys2Proof.Machine

/-- What no instruction but WAI and STP writes: the parameters, the platform's fields, the latches and input
levels, the waiting and the stopped state, the counter of free values. -/
def State.platform (s : State) : State :=
  { s with
    c := 0, x := 0, y := 0, sp := 0, d := 0, pc := 0, dbr := 0, pbr := 0, p := 0, e := false,
    mem := [], bus := [] }

/-- Memory after a list of accesses, with the addresses the platform owns. -/
def applyWrites (owned : List AddressRange) (l : List BusAccess) (m : Memory) : Memory :=
  l.foldl (fun m a => if isWrite a.kind then m.put owned a.addr a.data else m) m

/-- An access inside the address space; an extra read only on the W65C802 (R37, R61, R72). -/
def BusAccess.okFor (v : Variant) (a : BusAccess) : Prop :=
  a.addr < physSize v ∧ (v = .w65c816 → a.kind ≠ .spurious)

/-- From one state to another the machine has made these accesses and changed nothing but registers and the
bytes they write. -/
structure Traced (s t : State) (l : List BusAccess) : Prop where
  platform : t.platform = s.platform
  bus : t.bus = s.bus ++ l
  ok : ∀ a ∈ l, a.okFor s.cfg.variant
  mem : t.mem = applyWrites s.owned l s.mem

theorem Traced.cfg {s t : State} {l : List BusAccess} (h : Traced s t l) : t.cfg = s.cfg := by
  have := congrArg State.cfg h.platform
  exact this

theorem Traced.owned {s t : State} {l : List BusAccess} (h : Traced s t l) : t.owned = s.owned := by
  have := congrArg State.owned h.platform
  exact this

theorem Traced.waiting {s t : State} {l : List BusAccess} (h : Traced s t l) : t.waiting = s.waiting := by
  have := congrArg State.waiting h.platform
  exact this

theorem Traced.stopped {s t : State} {l : List BusAccess} (h : Traced s t l) : t.stopped = s.stopped := by
  have := congrArg State.stopped h.platform
  exact this

theorem Traced.abortRanges {s t : State} {l : List BusAccess} (h : Traced s t l) :
    t.abortRanges = s.abortRanges := by
  have := congrArg State.abortRanges h.platform
  exact this

/-- What external hardware rejects is the same before and after. -/
theorem Traced.rejects {s t : State} {l : List BusAccess} (h : Traced s t l) : t.rejects = s.rejects := by
  funext a; unfold State.rejects; rw [h.abortRanges, h.cfg]

/-- What external hardware blocks is the same before and after. -/
theorem Traced.blocks {s t : State} {l : List BusAccess} (h : Traced s t l) : t.blocks = s.blocks := by
  funext a; unfold State.blocks; rw [h.abortRanges, h.cfg]

/-- Writes with and without those that some test blocks agree on a byte that no blocked write goes to. -/
theorem writes_agree (owned : List AddressRange) (blocked : BusAccess → Bool) (b : Nat) (l : List BusAccess)
    (m n : Memory) (hl : ∀ a ∈ l, isWrite a.kind = true → a.addr = b → blocked a = false)
    (hm : m.read b = n.read b) :
    (l.foldl (fun m a => if isWrite a.kind && !blocked a then m.put owned a.addr a.data else m) m).read b =
      (applyWrites owned l n).read b := by
  induction l generalizing m n with
  | nil => exact hm
  | cons a l ih =>
    refine ih _ _ (fun c hc => hl c (by simp [hc])) ?_
    cases hk : isWrite a.kind
    · simpa [hk] using hm
    · by_cases hab : a.addr = b
      · simp [hk, hl a (by simp) hk hab, Memory.read_put, hm]
      · cases hj : blocked a <;> simp [hk, hj, Memory.read_put, Ne.symm hab, hm]

/-- An abort keeps every byte that no blocked write went to as it would be without it (R420). -/
theorem Traced.unblocked {s t : State} {l : List BusAccess} (h : Traced s t l) (hb : s.bus = []) (b : Nat)
    (hw : ∀ a ∈ t.bus, isWrite a.kind = true → a.addr = b → t.blocks a = false) :
    (t.unblocked s.mem).read b = t.mem.read b := by
  have hl : t.bus = l := by rw [h.bus, hb]; rfl
  rw [h.mem, State.unblocked, h.owned, hl]
  exact writes_agree s.owned t.blocks b l _ _ (hl ▸ hw) rfl

/-- Registers alone have changed. -/
theorem Traced.registers {s t : State} (h1 : t.platform = s.platform) (h2 : t.bus = s.bus)
    (h3 : t.mem = s.mem) : Traced s t [] :=
  ⟨h1, by rw [h2, List.append_nil], nofun, h3⟩

theorem Traced.trans {s t u : State} {l k : List BusAccess} (h : Traced s t l) (g : Traced t u k) :
    Traced s u (l ++ k) := by
  refine ⟨g.platform.trans h.platform, ?_, ?_, ?_⟩
  · rw [g.bus, h.bus, List.append_assoc]
  · intro a ha
    rcases List.mem_append.mp ha with ha | ha
    · exact h.ok a ha
    · rw [← h.cfg]; exact g.ok a ha
  · rw [g.mem, h.mem, h.owned, applyWrites, applyWrites, applyWrites, List.foldl_append]

/-- Registers change after the accesses. -/
theorem Traced.then {s t u : State} {l : List BusAccess} (h : Traced s t l) (h1 : u.platform = t.platform)
    (h2 : u.bus = t.bus) (h3 : u.mem = t.mem) : Traced s u l := by
  have := h.trans (Traced.registers h1 h2 h3)
  rwa [List.append_nil] at this

/-! ### Reads -/

theorem applyWrites_reads (owned : List AddressRange) (l : List BusAccess) (m : Memory)
    (h : ∀ a ∈ l, isWrite a.kind = false) :
    applyWrites owned l m = m := by
  induction l with
  | nil => rfl
  | cons a l ih =>
    rw [applyWrites, List.foldl_cons, h a (by simp)]
    exact ih fun b hb => h b (by simp [hb])

theorem Traced.note (s : State) (l : List BusAccess) (h : ∀ a ∈ l, a.okFor s.cfg.variant)
    (hr : ∀ a ∈ l, isWrite a.kind = false) : Traced s (s.note l) l :=
  ⟨rfl, rfl, h, (applyWrites_reads _ l _ hr).symm⟩

/-- The kinds that only read, other than the extra read of the W65C802. -/
def plainRead (k : BusKind) : Prop := isWrite k = false ∧ k ≠ .spurious

theorem State.readAccess_ok (s : State) (k : BusKind) (lock : Bool) (ea : Addr) (hk : plainRead k) :
    (s.readAccess k lock ea).okFor s.cfg.variant ∧ isWrite (s.readAccess k lock ea).kind = false :=
  ⟨⟨phys_lt _ _, fun _ => hk.2⟩, hk.1⟩

theorem State.readAccesses_ok (s : State) (k : BusKind) (lock : Bool) (w : Wrap) (ea : Addr) (n : Nat)
    (hk : plainRead k) : ∀ a ∈ s.readAccesses k lock w ea n,
      a.okFor s.cfg.variant ∧ isWrite a.kind = false := by
  intro a ha
  obtain ⟨i, _, rfl⟩ := List.mem_map.mp ha
  exact s.readAccess_ok k lock _ hk

theorem plainRead_read : plainRead .read := ⟨rfl, nofun⟩
theorem plainRead_pointer : plainRead .pointer := ⟨rfl, nofun⟩
theorem plainRead_vector : plainRead .vector := ⟨rfl, nofun⟩
theorem plainRead_opcode : plainRead .opcode := ⟨rfl, nofun⟩
theorem plainRead_operand : plainRead .operand := ⟨rfl, nofun⟩

theorem State.formingAccesses_ok (s : State) (m : MemMode) : ∀ a ∈ s.formingAccesses m,
    a.okFor s.cfg.variant ∧ isWrite a.kind = false := by
  intro a ha
  rcases List.mem_append.mp ha with ha | ha
  · simp only [State.pointerAccesses] at ha
    split at ha
    · exact s.readAccesses_ok _ _ _ _ _ plainRead_pointer a ha
    · cases ha
  · simp only [State.spuriousAccesses] at ha
    split at ha
    · rename_i hv
      rw [List.mem_singleton] at ha
      subst ha
      exact ⟨⟨phys_lt _ _, fun h => by rw [hv.1] at h; cases h⟩, rfl⟩
    · cases ha

theorem Traced.noteReads (s : State) (l : List BusAccess)
    (h : ∀ a ∈ l, a.okFor s.cfg.variant ∧ isWrite a.kind = false) : Traced s (s.note l) l :=
  Traced.note s l (fun a ha => (h a ha).1) (fun a ha => (h a ha).2)

theorem Traced.noteRead (s : State) (k : BusKind) (hk : plainRead k) (w : Wrap) (ea : Addr) (n : Nat) :
    ∃ l, Traced s (s.note (s.readAccesses k false w ea n)) l :=
  ⟨_, Traced.noteReads _ _ (s.readAccesses_ok _ _ _ _ _ hk)⟩

theorem Traced.noteLoad (s : State) (n : Width) (o : Operand) : ∃ l, Traced s (s.noteLoad n o) l := by
  cases o with
  | imm v => exact ⟨_, Traced.registers rfl rfl rfl⟩
  | mem m =>
    refine ⟨_, Traced.noteReads _ _ fun a ha => ?_⟩
    rcases List.mem_append.mp ha with ha | ha
    · exact s.formingAccesses_ok m a ha
    · exact s.readAccesses_ok _ _ _ _ _ plainRead_read a ha

theorem Traced.noteFetch (s : State) (i : Instr) : ∃ l, Traced s (s.noteFetch i) l := by
  refine ⟨_, Traced.noteReads _ _ fun a ha => ?_⟩
  rcases List.mem_cons.mp ha with rfl | ha
  · exact s.readAccess_ok _ _ _ plainRead_opcode
  · obtain ⟨k, _, rfl⟩ := List.mem_map.mp ha
    exact s.readAccess_ok _ _ _ plainRead_operand

/-! ### Writes -/

theorem Traced.write8 (s : State) (k : BusKind) (lock : Bool) (ea : Addr) (b : Byte)
    (hk : isWrite k = true) : Traced s (s.write8 k lock ea b) [⟨k, phys s.cfg.variant ea, b, lock⟩] := by
  refine ⟨rfl, rfl, ?_, ?_⟩
  · intro a ha
    rw [List.mem_singleton] at ha
    subst ha
    exact ⟨phys_lt _ _, fun _ => by rintro rfl; cases hk⟩
  · simp [applyWrites, hk]

theorem Traced.storeW (s : State) (n : Width) (w : Wrap) (ea : Addr) (v : Word) :
    ∃ l, Traced s (s.storeW n w ea v) l := by
  cases n
  · exact ⟨_, Traced.write8 _ _ _ _ _ rfl⟩
  · exact ⟨_, (Traced.write8 _ _ _ _ _ rfl).trans (Traced.write8 _ _ _ _ _ rfl)⟩

theorem Traced.writeBackW (s : State) (n : Width) (w : Wrap) (ea : Addr) (v : Word) :
    ∃ l, Traced s (s.writeBackW n w ea v) l := by
  cases n
  · exact ⟨_, Traced.write8 _ _ _ _ _ rfl⟩
  · exact ⟨_, (Traced.write8 _ _ _ _ _ rfl).trans (Traced.write8 _ _ _ _ _ rfl)⟩

theorem Traced.store (s : State) (n : Width) (m : MemMode) (v : Word) : ∃ l, Traced s (s.store n m v) l := by
  obtain ⟨l, h⟩ := Traced.storeW (s.note (s.formingAccesses m)) n (operandWrap m) (s.ea m) v
  exact ⟨_, (Traced.noteReads s _ (s.formingAccesses_ok m)).trans h⟩

theorem Traced.rmwFetch (s : State) (m : MemMode) : ∃ l, Traced s (s.rmwFetch m) l := by
  have h := Traced.noteReads s (s.formingAccesses m ++
      s.readAccesses .read true (operandWrap m) (s.ea m) (widthBytes s.mw)) (by
    intro a ha
    rcases List.mem_append.mp ha with ha | ha
    · exact s.formingAccesses_ok m a ha
    · exact s.readAccesses_ok _ _ _ _ _ plainRead_read a ha)
  simp only [State.rmwFetch]
  split
  · exact ⟨_, h.trans (Traced.write8 _ _ _ _ _ rfl)⟩
  · exact ⟨_, h⟩

theorem Traced.rmw (s : State) (m : MemMode) (op : UnaryOp) : ∃ l, Traced s (s.rmw m op) l := by
  obtain ⟨l, h⟩ := Traced.rmwFetch s m
  obtain ⟨k, g⟩ := Traced.writeBackW (s.rmwFetch m) s.mw (operandWrap m) (s.ea m)
    (op s.mw (s.rmwOld m) s.p).1
  exact ⟨_, (h.trans g).then rfl rfl rfl⟩

/-! ### The stack -/

theorem Traced.push8 (s : State) (b : Byte) : ∃ l, Traced s (s.push8 b) l :=
  ⟨_, (Traced.write8 s .write false (stackAddr s.sp) b rfl).then rfl rfl rfl⟩

theorem Traced.pushN8 (s : State) (b : Byte) : ∃ l, Traced s (s.pushN8 b) l :=
  ⟨_, (Traced.write8 s .write false (stackAddr s.sp) b rfl).then rfl rfl rfl⟩

theorem Traced.push16 (s : State) (v : Word) : ∃ l, Traced s (s.push16 v) l := by
  obtain ⟨l, h⟩ := Traced.push8 s (hiByte v)
  obtain ⟨k, g⟩ := Traced.push8 (s.push8 (hiByte v)) (loByte v)
  exact ⟨_, h.trans g⟩

theorem Traced.pushN16 (s : State) (v : Word) : ∃ l, Traced s (s.pushN16 v) l := by
  obtain ⟨l, h⟩ := Traced.pushN8 s (hiByte v)
  obtain ⟨k, g⟩ := Traced.pushN8 (s.pushN8 (hiByte v)) (loByte v)
  exact ⟨_, h.trans g⟩

theorem Traced.pushW (s : State) (n : Width) (v : Word) : ∃ l, Traced s (s.pushW n v) l := by
  cases n
  · exact Traced.push8 _ _
  · exact Traced.push16 _ _

theorem Traced.pushWordN (s : State) (v : Word) : ∃ l, Traced s (s.pushWordN v) l := by
  obtain ⟨l, h⟩ := Traced.pushN16 s v
  exact ⟨_, h.then rfl rfl rfl⟩

theorem Traced.pull8 (s : State) : ∃ l, Traced s s.pull8 l :=
  ⟨_, (Traced.noteReads s [s.readAccess .read false (stackAddr (spUp s.e s.sp))] (by
    intro a ha; rw [List.mem_singleton] at ha; subst ha
    exact s.readAccess_ok _ _ _ plainRead_read)).then rfl rfl rfl⟩

theorem Traced.pullN8 (s : State) : ∃ l, Traced s s.pullN8 l :=
  ⟨_, (Traced.noteReads s [s.readAccess .read false (stackAddr (s.sp + 1))] (by
    intro a ha; rw [List.mem_singleton] at ha; subst ha
    exact s.readAccess_ok _ _ _ plainRead_read)).then rfl rfl rfl⟩

theorem Traced.pull16 (s : State) : ∃ l, Traced s s.pull16 l := by
  obtain ⟨l, h⟩ := Traced.pull8 s
  obtain ⟨k, g⟩ := Traced.pull8 s.pull8
  exact ⟨_, h.trans g⟩

theorem Traced.pullW (s : State) (n : Width) : ∃ l, Traced s (s.pullW n) l := by
  cases n
  · exact Traced.pull8 _
  · exact Traced.pull16 _

/-! ### Interrupts -/

theorem Traced.loadVector (s : State) (va : Word) : ∃ l, Traced s (s.loadVector va) l :=
  ⟨_, (Traced.noteReads s _ (s.readAccesses_ok .vector false .bank (mkAddr 0x00 va) 2
    plainRead_vector)).then rfl rfl rfl⟩

theorem Traced.pushFrame (s : State) (src : Source) (ret : Word) :
    ∃ l, Traced s (s.pushFrame src ret) l := by
  have h1 : ∃ l, Traced s (if s.e then s else s.push8 s.pbr) l := by
    split
    · exact ⟨_, Traced.registers rfl rfl rfl⟩
    · exact Traced.push8 _ _
  obtain ⟨l, h⟩ := h1
  obtain ⟨k, g⟩ := Traced.push16 (if s.e then s else s.push8 s.pbr) ret
  obtain ⟨j, f⟩ := Traced.push8 ((if s.e then s else s.push8 s.pbr).push16 ret) (stackedP src s.e s.p)
  exact ⟨_, (h.trans g).trans f⟩

theorem Traced.interrupt (s : State) (src : Source) (ret : Word) :
    ∃ l, Traced s (s.interrupt src ret) l := by
  obtain ⟨l, h⟩ := Traced.pushFrame s src ret
  obtain ⟨k, g⟩ := Traced.loadVector (s.pushFrame src ret).enterHandler (vectorOf src s.e)
  exact ⟨_, (h.then rfl rfl rfl : Traced s (s.pushFrame src ret).enterHandler l).trans g⟩

theorem Traced.returnFromInterrupt (s : State) : ∃ l, Traced s s.returnFromInterrupt l := by
  obtain ⟨l, h⟩ := Traced.pull8 s
  have h := h.then (u := s.pull8.loadP s.pulled8) rfl rfl rfl
  obtain ⟨k, g⟩ := Traced.pull16 (s.pull8.loadP s.pulled8)
  have g := g.then (u := (s.pull8.loadP s.pulled8).pull16.setPc (s.pull8.loadP s.pulled8).pulled16) rfl rfl rfl
  simp only [State.returnFromInterrupt]
  split
  · exact ⟨_, h.trans g⟩
  · obtain ⟨j, f⟩ := Traced.pull8 ((s.pull8.loadP s.pulled8).pull16.setPc (s.pull8.loadP s.pulled8).pulled16)
    exact ⟨_, ((h.trans g).trans f).then rfl rfl rfl⟩

/-! ### Control flow -/

theorem Traced.advance (s : State) (n : Nat) : Traced s (s.advance n) [] := Traced.registers rfl rfl rfl

theorem Traced.jumpTable (s : State) (a : Word) : ∃ l, Traced s (s.jumpTable a) l := by
  obtain ⟨l, h⟩ := Traced.noteRead s _ plainRead_pointer .bank (mkAddr s.pbr (a + s.x)) 2
  exact ⟨_, h.then rfl rfl rfl⟩

theorem Traced.noteOperand (s : State) (ea : Addr) :
    ∃ l, Traced s (s.note [s.readAccess .operand false ea]) l :=
  ⟨_, Traced.noteReads s _ (by
    intro a ha; rw [List.mem_singleton] at ha; subst ha
    exact s.readAccess_ok _ _ _ plainRead_operand)⟩

theorem Traced.callIndexedIndirect (s : State) (a : Word) : ∃ l, Traced s (s.callIndexedIndirect a) l := by
  obtain ⟨l, h⟩ := Traced.pushN16 s (s.pc + 2)
  obtain ⟨k, g⟩ := Traced.noteOperand (s.pushN16 (s.pc + 2)) (s.codeAddr 2)
  simp only [State.callIndexedIndirect]
  generalize mkWord _ (loByte a) = v
  obtain ⟨j, f⟩ := Traced.jumpTable ((s.pushN16 (s.pc + 2)).note
    [(s.pushN16 (s.pc + 2)).readAccess .operand false (s.codeAddr 2)]) v
  exact ⟨_, ((h.trans g).trans f).then rfl rfl rfl⟩

theorem Traced.callLong (s : State) (a : Addr) : ∃ l, Traced s (s.callLong a) l := by
  obtain ⟨l, h⟩ := Traced.pushN8 s s.pbr
  obtain ⟨k, g⟩ := Traced.noteOperand (s.pushN8 s.pbr) (s.codeAddr 3)
  obtain ⟨j, f⟩ := Traced.pushN16 ((s.pushN8 s.pbr).note
    [(s.pushN8 s.pbr).readAccess .operand false (s.codeAddr 3)]) (s.pc + 3)
  exact ⟨_, ((h.trans g).trans f).then rfl rfl rfl⟩

theorem Traced.rtl (s : State) : ∃ l, Traced s s.rtl l := by
  obtain ⟨l, h⟩ := Traced.pullN8 s
  obtain ⟨k, g⟩ := Traced.pullN8 s.pullN8
  obtain ⟨j, f⟩ := Traced.pullN8 s.pullN8.pullN8
  exact ⟨_, ((h.trans g).trans f).then rfl rfl rfl⟩

theorem Traced.blockMove (s : State) (delta : Word) (dst src : Byte) :
    ∃ l, Traced s (s.blockMove delta dst src) l := by
  have h := Traced.noteReads s [s.readAccess .read false (mkAddr src s.x)] (by
    intro a ha; rw [List.mem_singleton] at ha; subst ha
    exact s.readAccess_ok _ _ _ plainRead_read)
  exact ⟨_, (h.trans (Traced.write8 _ .write false (mkAddr dst s.y) (s.peek .read (mkAddr src s.x)) rfl)).then
    rfl rfl rfl⟩

theorem Traced.branch (s : State) (b : Bool) (disp : Byte) : ∃ l, Traced s (s.branch b disp) l := by
  cases b <;> exact ⟨_, Traced.registers rfl rfl rfl⟩

theorem Traced.exchangeCE (s : State) : ∃ l, Traced s s.exchangeCE l := by
  simp only [State.exchangeCE]
  split <;> exact ⟨_, Traced.registers rfl rfl rfl⟩

/-! ### Every instruction -/

theorem Traced.runRead (s : State) (op : ReadOp) (o : Operand) : ∃ l, Traced s (s.runRead op o) l := by
  obtain ⟨l, h⟩ := Traced.noteLoad s s.mw o
  obtain ⟨k, g⟩ := Traced.noteLoad s s.xw o
  cases op with
  | bit =>
    cases o with
    | imm v => exact ⟨_, Traced.registers rfl rfl rfl⟩
    | mem m => exact ⟨_, h.then rfl rfl rfl⟩
  | ldx => exact ⟨_, g.then rfl rfl rfl⟩
  | ldy => exact ⟨_, g.then rfl rfl rfl⟩
  | cpx => exact ⟨_, g.then rfl rfl rfl⟩
  | cpy => exact ⟨_, g.then rfl rfl rfl⟩
  | _ => exact ⟨_, h.then rfl rfl rfl⟩

theorem Traced.pull_then {s t : State} (h : ∃ l, Traced s t l) (u : State) (h1 : u.platform = t.platform)
    (h2 : u.bus = t.bus) (h3 : u.mem = t.mem) : ∃ l, Traced s u l := by
  obtain ⟨l, h⟩ := h
  exact ⟨l, h.then h1 h2 h3⟩

theorem Traced.after {s t : State} (n : Nat) (h : ∃ l, Traced (s.advance n) t l) : ∃ l, Traced s t l := by
  obtain ⟨l, h⟩ := h
  exact ⟨_, (Traced.advance s n).trans h⟩

theorem Traced.pld (s : State) : ∃ l, Traced s s.pld l := by
  obtain ⟨l, h⟩ := Traced.pullN8 s
  obtain ⟨k, g⟩ := Traced.pullN8 s.pullN8
  exact ⟨_, (h.trans g).then rfl rfl rfl⟩

theorem Traced.pei (s : State) (off : Byte) : ∃ l, Traced s (s.pei off) l := by
  obtain ⟨l, h⟩ := Traced.noteRead s _ plainRead_read .bank (mkAddr 0x00 (s.dirAddr off 0)) 2
  simp only [State.pei]
  generalize s.peek16 _ _ _ = v
  obtain ⟨k, g⟩ := Traced.pushWordN
    (s.note (s.readAccesses .read false .bank (mkAddr 0x00 (s.dirAddr off 0)) 2)) v
  exact ⟨_, h.trans g⟩

theorem Traced.call (s : State) (a : Word) : ∃ l, Traced s (s.call a) l := by
  obtain ⟨l, h⟩ := Traced.push16 s (s.pc + 2)
  exact ⟨l, h.then rfl rfl rfl⟩

/-- The instructions that have none of the four operand forms. -/
theorem exec_traced_other (i : Instr) (s t : State) (h : exec i s = .next t) (h1 : readForm i = none)
    (h2 : storeForm i = none) (h3 : modifyForm i = none) (h4 : accForm i = none)
    (h5 : i ≠ .wai) (h6 : i ≠ .stp) : ∃ l, Traced s t l := by
  cases i
  case tax | tay | txa | tya | txy | tyx | tsx | txs | tcd | tdc | tcs | tsc | xba | inx | iny | dex | dey | clc | cld | cli | clv | sec | sed | sei | nop =>
    obtain rfl := Host.Outcome.next.inj h
    exact ⟨_, Traced.registers rfl rfl rfl⟩
  case repImm | sepImm | wdm | brl | jmpAbs | jmpLong =>
    obtain rfl := Host.Outcome.next.inj h
    exact ⟨_, Traced.registers rfl rfl rfl⟩
  case bcc | bcs | beq | bne | bmi | bpl | bvs | bvc | bra =>
    obtain rfl := Host.Outcome.next.inj h
    exact Traced.after 2 (Traced.branch _ _ _)
  case xce =>
    obtain rfl := Host.Outcome.next.inj h
    exact Traced.after 1 (Traced.exchangeCE _)
  case pha | phx | phy =>
    obtain rfl := Host.Outcome.next.inj h
    exact Traced.after 1 (Traced.pushW _ _ _)
  case php | phb | phk =>
    obtain rfl := Host.Outcome.next.inj h
    exact Traced.after 1 (Traced.push8 _ _)
  case phd =>
    obtain rfl := Host.Outcome.next.inj h
    exact Traced.after 1 (Traced.pushWordN _ _)
  case pea | per =>
    obtain rfl := Host.Outcome.next.inj h
    exact Traced.after 3 (Traced.pushWordN _ _)
  case pla | plx | ply =>
    obtain rfl := Host.Outcome.next.inj h
    exact Traced.after 1 (Traced.pull_then (Traced.pullW _ _) _ rfl rfl rfl)
  case plp | plb =>
    obtain rfl := Host.Outcome.next.inj h
    exact Traced.after 1 (Traced.pull_then (Traced.pull8 _) _ rfl rfl rfl)
  case rts =>
    obtain rfl := Host.Outcome.next.inj h
    exact Traced.after 1 (Traced.pull_then (Traced.pull16 _) _ rfl rfl rfl)
  case rtl =>
    obtain rfl := Host.Outcome.next.inj h
    exact Traced.after 1 (Traced.rtl _)
  case pld =>
    obtain rfl := Host.Outcome.next.inj h
    exact Traced.after 1 (Traced.pld _)
  case pei =>
    obtain rfl := Host.Outcome.next.inj h
    exact Traced.after 2 (Traced.pei _ _)
  case rti =>
    obtain rfl := Host.Outcome.next.inj h
    exact Traced.after 1 (Traced.returnFromInterrupt _)
  case brk | cop =>
    obtain rfl := Host.Outcome.next.inj h
    exact Traced.after 2 (Traced.interrupt _ _ _)
  case jsrAbs =>
    obtain rfl := Host.Outcome.next.inj h
    exact Traced.call _ _
  case jsrAbsXInd =>
    obtain rfl := Host.Outcome.next.inj h
    exact Traced.callIndexedIndirect _ _
  case jslLong =>
    obtain rfl := Host.Outcome.next.inj h
    exact Traced.callLong _ _
  case jmpAbsXInd =>
    obtain rfl := Host.Outcome.next.inj h
    exact Traced.jumpTable _ _
  case jmpAbsInd | jmlAbsInd =>
    obtain rfl := Host.Outcome.next.inj h
    exact Traced.pull_then (Traced.noteRead _ _ plainRead_pointer _ _ _) _ rfl rfl rfl
  case mvn | mvp =>
    obtain rfl := Host.Outcome.next.inj h
    exact Traced.blockMove _ _ _ _
  case wai => exact absurd rfl h5
  case stp => exact absurd rfl h6
  all_goals first
    | (cases h1; done)
    | (cases h2; done)
    | (cases h3; done)
    | cases h4

/-- Every instruction but WAI and STP: memory changes by the writes on the bus record, every access is inside
the address space, the platform's fields stay. -/
theorem exec_traced (i : Instr) (s t : State) (h : exec i s = .next t) (h5 : i ≠ .wai) (h6 : i ≠ .stp) :
    ∃ l, Traced s t l := by
  cases h1 : readForm i with
  | some r =>
    rw [exec_readForm i r.1 r.2 s h1] at h
    obtain rfl := Host.Outcome.next.inj h
    exact Traced.after _ (Traced.runRead _ _ _)
  | none =>
  cases h2 : storeForm i with
  | some r =>
    rw [exec_storeForm i r.1 r.2 s h2] at h
    obtain rfl := Host.Outcome.next.inj h
    refine Traced.after (instrLength i) ?_
    cases r.1 <;> exact Traced.store _ _ _ _
  | none =>
  cases h3 : modifyForm i with
  | some r =>
    rw [exec_modifyForm i r.1 r.2 s h3] at h
    obtain rfl := Host.Outcome.next.inj h
    exact Traced.after _ (Traced.rmw _ _ _)
  | none =>
  cases h4 : accForm i with
  | some op =>
    rw [exec_accForm i op s h4] at h
    obtain rfl := Host.Outcome.next.inj h
    exact ⟨_, Traced.registers rfl rfl rfl⟩
  | none => exact exec_traced_other i s t h h1 h2 h3 h4 h5 h6

/-- The same of every instruction, but for the waiting and the stopped state. -/
theorem exec_traced_any (i : Instr) (s t : State) (h : exec i s = .next t) :
    ∃ l, Traced s { t with waiting := s.waiting, stopped := s.stopped } l := by
  by_cases h5 : i = .wai
  · subst h5; obtain rfl := Host.Outcome.next.inj h; exact ⟨_, Traced.registers rfl rfl rfl⟩
  by_cases h6 : i = .stp
  · subst h6; obtain rfl := Host.Outcome.next.inj h; exact ⟨_, Traced.registers rfl rfl rfl⟩
  obtain ⟨l, hl⟩ := exec_traced i s t h h5 h6
  have : ({ t with waiting := s.waiting, stopped := s.stopped } : State) = t := by
    rw [← hl.waiting, ← hl.stopped]
  exact ⟨l, this ▸ hl⟩

end Sys2Proof.Machine
end

