-- ==== Sys2Proof/Machine/Assembly.lean ====
section
/-!
DEFINITION. The assembler syntax of 30_encoding.md R100 to R107: one source line to the bytes of one
instruction. No step depends on it. What R100 to R107 leave open is in notes/assumptions/36.
-/

namespace Sys2Proof.Machine

/-! ### Constants and expressions (R102) -/

/-- The value of a decimal digit. -/
def decDigit (ch : Char) : Option Nat :=
  if '0' ≤ ch ∧ ch ≤ '9' then some (ch.toNat - '0'.toNat) else none

/-- The value of a hexadecimal digit. -/
def hexDigit (ch : Char) : Option Nat :=
  if 'a' ≤ ch ∧ ch ≤ 'f' then some (ch.toNat - 'a'.toNat + 10)
  else if 'A' ≤ ch ∧ ch ≤ 'F' then some (ch.toNat - 'A'.toNat + 10)
  else decDigit ch

/-- A number in a base, its digits from the most significant on. -/
def numberFrom (digit : Char → Option Nat) (base : Nat) : Nat → List Char → Option Nat
  | v, [] => some v
  | v, ch :: rest => (digit ch).bind fun k => numberFrom digit base (v * base + k) rest

/-- Lower case is identical to upper case (R100). -/
def lower (l : List Char) : List Char := l.map Char.toLower

/-- A label starts with a letter, followed by letters and digits (R100). -/
def validLabel : List Char → Bool
  | [] => true
  | ch :: rest => ch.isAlpha && rest.all Char.isAlphanum

/-- The labels an assembler has located, with their values. Their case does not matter (R100). -/
abbrev Labels := List (List Char × BitVec 32)

/-- The value of an expression, and whether it has an `EXT` label in it, one the assembler cannot locate (R102). -/
structure ExprValue where
  value : BitVec 32
  ext : Bool
deriving DecidableEq, Repr

/-- A label: its value where it has been located, otherwise an `EXT` label, whose value is the linker's (R102). -/
def labelValue (labels : Labels) (l : List Char) : Option ExprValue :=
  match labels.find? fun known => lower known.1 == lower l with
  | some known => some ⟨known.2, false⟩
  | none => if validLabel l then some ⟨Config.externalValue (lower l), true⟩ else none

/-- One term of an expression (R102): a decimal number, a `$` hexadecimal number, or a label. -/
def term (labels : Labels) : List Char → Option ExprValue
  | [] => none
  | '$' :: ds => if ds.isEmpty then none else (numberFrom hexDigit 16 0 ds).map fun v => ⟨BitVec.ofNat 32 v, false⟩
  | ch :: rest =>
    if (decDigit ch).isSome then (numberFrom decDigit 10 0 (ch :: rest)).map fun v => ⟨BitVec.ofNat 32 v, false⟩
    else labelValue labels (ch :: rest)

/-- A term added to or subtracted from a sum. -/
def addTerm (labels : Labels) (sum : ExprValue) (minus : Bool) (revTerm : List Char) : Option ExprValue :=
  (term labels revTerm.reverse).map fun v =>
    ⟨if minus then sum.value - v.value else sum.value + v.value, sum.ext || v.ext⟩

/-- The addition and subtraction of terms (R102), 32 bits wide. -/
def sumTerms (labels : Labels) : ExprValue → Bool → List Char → List Char → Option ExprValue
  | sum, minus, acc, [] => addTerm labels sum minus acc
  | sum, minus, acc, ch :: rest =>
    if ch = '+' then (addTerm labels sum minus acc).bind fun v => sumTerms labels v false [] rest
    else if ch = '-' then (addTerm labels sum minus acc).bind fun v => sumTerms labels v true [] rest
    else sumTerms labels sum minus (ch :: acc) rest

/-- The value of an expression. -/
def expr (labels : Labels) (l : List Char) : Option ExprValue := sumTerms labels ⟨0, false⟩ false [] l

/-! ### Operands (R103 to R106) -/

/-- The size-forcing prefixes of R105. -/
inductive Force where
  | free
  /-- `<`. -/
  | direct
  /-- `|` or `!`. -/
  | absolute
  /-- `>`. -/
  | long
deriving DecidableEq, Repr

/-- An address truncated to the size its prefix forces (R105). -/
def Force.truncate : Force → BitVec 32 → BitVec 32
  | .free, v => v
  | .direct, v => v &&& 0xFF
  | .absolute, v => v &&& 0xFFFF
  | .long, v => v &&& 0xFFFFFF

/-- An address in an operand: its size forced or not, its value, and whether it is `EXT` (R102). -/
structure Address where
  force : Force
  value : BitVec 32
  ext : Bool
deriving DecidableEq, Repr

/-- The operand formats of R103. -/
inductive OperandText where
  | none
  /-- `A`. -/
  | acc
  /-- `#v`, with the selected bits of the value (R104). -/
  | imm (selected : BitVec 32)
  /-- `v`. -/
  | plain (v : Address)
  /-- `v,x`. -/
  | indexX (v : Address)
  /-- `v,y`. -/
  | indexY (v : Address)
  /-- `v,s`. -/
  | indexS (v : Address)
  /-- `(v)`. -/
  | paren (v : Address)
  /-- `(v,x)`. -/
  | parenX (v : Address)
  /-- `(v),y`. -/
  | parenY (v : Address)
  /-- `(v,s),y`. -/
  | parenSY (v : Address)
  /-- `[v]`. -/
  | bracket (v : Address)
  /-- `[v],y`. -/
  | bracketY (v : Address)
  /-- `v,v`: source bank, destination bank (R106). -/
  | pair (source destination : BitVec 32)
deriving DecidableEq, Repr

/-- An expression as an address whose size a prefix forces, or none does. -/
def addressOf (labels : Labels) (force : Force) (l : List Char) : Option Address :=
  (expr labels l).map fun v => ⟨force, force.truncate v.value, v.ext⟩

/-- The size a prefix character forces (R105). -/
def forceOf (ch : Char) : Option Force :=
  if ch = '<' then some .direct
  else if ch = '|' ∨ ch = '!' then some .absolute
  else if ch = '>' then some .long
  else none

/-- The `v` of R103: an expression with an optional size-forcing prefix. -/
def prefixed (labels : Labels) : List Char → Option Address
  | [] => none
  | ch :: rest =>
    match forceOf ch with
    | some force => addressOf labels force rest
    | none => addressOf labels .free (ch :: rest)

/-- An address of an operand (R103, R105): a `v`, or the prefix of a format before a `v`, which may have one of its
own. The spec does not say what two prefixes mean: the first one forces the size, the second only truncates the
value. DESIGN CHOICE: notes/assumptions/36. -/
def address (labels : Labels) : List Char → Option Address
  | [] => none
  | ch :: rest =>
    match forceOf ch with
    | some force => (prefixed labels rest).map fun v => ⟨force, force.truncate v.value, v.ext⟩
    | none => prefixed labels (ch :: rest)

/-- The bits of an immediate that its first character selects, from the whole calculated value of its `v` (R103,
R104). `<` and `>` behind the `#` are the byte selection, and the `v` after it may have a size prefix. How such a
prefix acts on an immediate, whose size the status register gives, the spec does not say: it truncates the value
before the selection. DESIGN CHOICE: notes/assumptions/36. -/
def immediate (labels : Labels) : List Char → Option (BitVec 32)
  | [] => none
  | ch :: rest =>
    if ch = '<' then (prefixed labels rest).map Address.value
    else if ch = '>' then (prefixed labels rest).map fun (v : Address) => v.value >>> 8
    else if ch = '^' then (prefixed labels rest).map fun (v : Address) => v.value >>> 16
    else (prefixed labels (ch :: rest)).map Address.value

/-- A list without a given end, if it ends so. -/
def dropEnd (suffix l : List Char) : Option (List Char) :=
  if l.drop (l.length - suffix.length) = suffix then some (l.take (l.length - suffix.length)) else none

/-- The first of several readings of an operand whose end matches. -/
def byEnd (labels : Labels) (l : List Char) : List (List Char × (Address → OperandText)) → Option OperandText
  | [] => none
  | (suffix, mk) :: rest =>
    match dropEnd suffix l with
    | some inner => (address labels inner).map mk
    | none => byEnd labels l rest

/-- Two banks with a comma between, each an address with its optional prefix (R103, R106). -/
def bankPair (labels : Labels) (l : List Char) : Option OperandText :=
  (address labels (l.takeWhile (· ≠ ','))).bind fun src =>
    (address labels ((l.dropWhile (· ≠ ',')).drop 1)).map fun dst => .pair src.value dst.value

/-- An operand field, in lower case (R103). `A` alone is the accumulator, and X, Y or S behind a comma the index
register or the stack pointer, also where a label has that name, which R100 and R102 allow: the spec does not say
which of the two is meant. DESIGN CHOICE: notes/assumptions/36. -/
def operandText (labels : Labels) : List Char → Option OperandText
  | [] => some .none
  | ['a'] => some .acc
  | '#' :: rest => (immediate labels rest).map .imm
  | '(' :: rest =>
    byEnd labels rest [([',', 's', ')', ',', 'y'], .parenSY), ([')', ',', 'y'], .parenY),
      ([',', 'x', ')'], .parenX), ([')'], .paren)]
  | '[' :: rest => byEnd labels rest [([']', ',', 'y'], .bracketY), ([']'], .bracket)]
  | l =>
    match byEnd labels l [([',', 'x'], .indexX), ([',', 'y'], .indexY), ([',', 's'], .indexS)] with
    | some o => some o
    | none => if ',' ∈ l then bankPair labels l else (address labels l).map .plain

/-! ### Choosing the addressing mode (R102, R105) -/

/-- The modes an address may mean, in order of preference, given the mode with a one-byte, a two-byte and a
three-byte address (R103, R105). A forced size is taken where the instruction has that mode; a shorter address is
extended with zeros where it has not, and a long one truncated to two bytes. Unforced, an `EXT` label is two bytes
long; another address takes the shortest mode that holds its value, or the two-byte one, truncated, where the
instruction has no long one. -/
def bySize (v : Address) (short two three : Option Mode) : List Mode :=
  match v.force with
  | .direct => short.toList ++ two.toList ++ three.toList
  | .absolute => two.toList ++ three.toList
  | .long => three.toList ++ two.toList
  | .free =>
    if v.ext then two.toList
    else if v.value.toNat < 0x100 then short.toList ++ two.toList ++ three.toList
    else if v.value.toNat < 0x10000 then two.toList ++ three.toList
    else three.toList ++ two.toList

/-- The addressing modes an operand may mean, in order of preference, and the value its bytes are made of. Of the
operands of mode s the spec gives only `PEI (d)`, `PEA a`, `PER label`, `COP sig` and, without its form, an optional
signature of BRK (R103, R279, R360). The model takes for each of the five a plain and a parenthesised operand alike
(`PEI d`, `PEA (a)`, `PER (label)`, `COP (sig)`, `BRK sig` and `BRK (sig)` too) and no other form (`BRK #sig` is
refused). DESIGN CHOICE: notes/assumptions/36. -/
def candidates : OperandText → List Mode × BitVec 32
  | .none => ([.imp, .stack, .unnamed], 0)
  | .acc => ([.acc], 0)
  | .imm v => ([.imm], v)
  | .plain v => (bySize v (some .dir) (some .abs) (some .long) ++ [.rel, .relLong, .stack], v.value)
  | .indexX v => (bySize v (some .dirX) (some .absX) (some .longX), v.value)
  | .indexY v => (bySize v (some .dirY) (some .absY) none, v.value)
  | .indexS v => (bySize v (some .stk) none none, v.value)
  | .paren v => (bySize v (some .dirInd) (some .absInd) none ++ [.stack], v.value)
  | .parenX v => (bySize v (some .dirXInd) (some .absXInd) none, v.value)
  | .parenY v => (bySize v (some .dirIndY) none none, v.value)
  | .parenSY v => (bySize v (some .stkIndY) none none, v.value)
  | .bracket v => (bySize v (some .dirLong) (some .absInd) none, v.value)
  | .bracketY v => (bySize v (some .dirLongY) none none, v.value)
  | .pair _ _ => ([.blockMove], 0)

/-! ### Mnemonics (R101) -/

/-- The alternate mnemonics that need no operand to be resolved, with their standard ones. -/
def aliases : List (String × String) :=
  [("BLT", "BCC"), ("BGE", "BCS"), ("CMA", "CMP"), ("TAD", "TCD"), ("TAS", "TCS"), ("TDA", "TDC"),
   ("TSA", "TSC"), ("SWA", "XBA")]

/-- An address is a long one: forced, or located and too large for two bytes (R102). -/
def isLong (v : Address) : Bool :=
  v.force == .long || (v.force == .free && !v.ext && decide (0x10000 ≤ v.value.toNat))

/-- The standard mnemonic and operand of a line (R101): DEA and INA, JSR and JMP with long addresses, JML
with an address it forces long. The spec does not say what an operand written after DEA or INA means, which have
theirs in the name: such a line is no instruction. DESIGN CHOICE: notes/assumptions/36. -/
def standard (mnemonic : String) (o : OperandText) : String × OperandText :=
  match mnemonic, o with
  | "DEA", .none => ("DEC", .acc)
  | "INA", .none => ("INC", .acc)
  | "JSR", .plain v => if isLong v then ("JSL", o) else ("JSR", o)
  | "JSL", .plain v => ("JSL", .plain { v with force := .long })
  | "JML", .plain v => ("JMP", .plain { v with force := .long })
  | "JMP", .bracket v => ("JML", .bracket v)
  | _, _ => ((aliases.lookup mnemonic).getD mnemonic, o)

/-- The first of the modes that the instruction has. -/
def findCell (mnemonic : String) : List Mode → Option Cell
  | [] => none
  | m :: rest =>
    match opcodeMatrix.flatten.find? fun cell => cell.mnemonic == mnemonic && cell.mode == m with
    | some cell => some cell
    | none => findCell mnemonic rest

/-! ### Operand bytes -/

/-- What an assembler knows: the labels it has located, the address of the line, the current accumulator
and index size settings (R104); and the second byte it writes for `BRK` and `WDM` without an operand, which the
spec leaves open (R360, R366; notes/assumptions/36). -/
structure AssemblerState where
  labels : Labels
  pc : BitVec 32
  narrowM : Bool
  narrowX : Bool
  fill : Byte
deriving DecidableEq, Repr

/-- The low byte or the low two bytes of a value, by a size setting (R104). -/
def immOf (narrow : Bool) (v : BitVec 32) : Imm :=
  if narrow then .byte (v.setWidth 8) else .word (v.setWidth 16)

/-- The displacement from the next instruction to a target (R103), as a signed number. Only the offsets count:
the spec does not say what a target in another bank means. DESIGN CHOICE: notes/assumptions/36. -/
def displacement (pc target : BitVec 32) (length : Nat) : Int :=
  (target.setWidth 16 - (pc.setWidth 16 + BitVec.ofNat 16 length) : Word).toInt

/-- An instruction with one operand byte that the assembler may be given without it: BRK, whose signature is
optional, and WDM, which has no operand syntax (R360, R366). -/
def writtenAlone (cell : Cell) : Bool := cell.mnemonic == "BRK" || cell.mode == .unnamed

/-- The instruction of a cell and a value (R91, R103, R105): a branch takes the displacement to its target,
which must fit; every other operand is truncated to its field. The byte of `BRK` and `WDM` written alone is the
assembler's `fill`. -/
def instrOf (st : AssemblerState) (cell : Cell) (v : BitVec 32) (o : OperandText) : Option Instr :=
  match cell.shape, o with
  | .imp i, .none => some i
  | .imp i, .acc => some i
  | .imp _, _ => none
  | .blk f, .pair src dst => some (f (dst.setWidth 8) (src.setWidth 8))
  | .blk _, _ => none
  | .b8 f, .none => if writtenAlone cell then some (f st.fill) else none
  | _, .none => none
  | .b8 f, _ =>
    if cell.mode = .rel then
      let k := displacement st.pc v 2
      if -128 ≤ k ∧ k ≤ 127 then some (f (BitVec.ofInt 8 k)) else none
    else some (f (v.setWidth 8))
  | .b16 f, _ =>
    if cell.mode = .relLong ∨ cell.mnemonic = "PER" then
      some (f (BitVec.ofInt 16 (displacement st.pc v 3)))
    else some (f (v.setWidth 16))
  | .b24 f, _ => some (f (v.setWidth 24))
  | .immM f, _ => some (f (immOf st.narrowM v))
  | .immX f, _ => some (f (immOf st.narrowX v))

/-- One operation code with its operand field (R100). -/
def instrOfText (st : AssemblerState) (mnemonic : String) (operand : List Char) : Option Instr :=
  (operandText st.labels (lower operand)).bind fun o =>
    let std := standard mnemonic o
    let modes := candidates std.2
    (findCell std.1 modes.1).bind fun cell => instrOf st cell modes.2 std.2

/-! ### Source lines (R100) -/

/-- A source line: a comment, or up to four fields with the comment field dropped. -/
inductive Line where
  | comment
  | code (label : List Char) (operation : List Char) (operand : List Char)
deriving DecidableEq, Repr

/-- The fields of a line. The label begins in column one; the operand has no space in it. After an operation
without an operand a comment field begins with a semicolon: the spec does not say how it is told from an operand.
DESIGN CHOICE: notes/assumptions/36. -/
def splitLine (l : List Char) : Line :=
  let isField := fun ch => ch ≠ ' '
  if l.all (· = ' ') then .comment
  else match l with
    | ';' :: _ => .comment
    | '*' :: _ => .comment
    | _ =>
      let label := l.takeWhile isField
      let afterLabel := (l.dropWhile isField).dropWhile (· = ' ')
      let operation := afterLabel.takeWhile isField
      let operand := ((afterLabel.dropWhile isField).dropWhile (· = ' ')).takeWhile isField
      .code label operation (if operand.head? = some ';' then [] else operand)

/-- The bytes a source line generates: none for a comment, those of one instruction otherwise. Upper and
lower case are equivalent (R100). -/
def assemble (st : AssemblerState) (line : String) : Option (List Byte) :=
  match splitLine line.toList with
  | .comment => some []
  | .code label operation operand =>
    if validLabel label && operation.length == 3 then
      (instrOfText st (String.ofList (operation.map Char.toUpper)) operand).map encode
    else none

end Sys2Proof.Machine
end

