-- ==== Sys2Proof/Tests/Slice0.lean ====
section
/-!
SUPPORT. Tests: ill-formed instructions are refused; the word of every opcode, written out from the opcode
list of 30_encoding.md R95, decodes to its instruction; single steps on the examples and vectors of the spec
(the expected values are the spec's); the assembler, the pins and the cycle counts on the spec's examples;
and, for every statement that has hypotheses, a state and operands that meet them.
-/

namespace Sys2Proof.Tests

open Sys2Proof.Machine

/-! ### WellFormed refuses an immediate of the wrong length (R93) -/

theorem test_illFormed_oraImm (x : Bool) :
    (Instr.oraImm (.word 0x1234)).wellFormed true x = false ∧
      (Instr.oraImm (.byte 0x12)).wellFormed false x = false :=
  ⟨rfl, rfl⟩

theorem test_illFormed_andImm (x : Bool) :
    (Instr.andImm (.word 0x1234)).wellFormed true x = false ∧
      (Instr.andImm (.byte 0x12)).wellFormed false x = false :=
  ⟨rfl, rfl⟩

theorem test_illFormed_eorImm (x : Bool) :
    (Instr.eorImm (.word 0x1234)).wellFormed true x = false ∧
      (Instr.eorImm (.byte 0x12)).wellFormed false x = false :=
  ⟨rfl, rfl⟩

theorem test_illFormed_adcImm (x : Bool) :
    (Instr.adcImm (.word 0x1234)).wellFormed true x = false ∧
      (Instr.adcImm (.byte 0x12)).wellFormed false x = false :=
  ⟨rfl, rfl⟩

theorem test_illFormed_bitImm (x : Bool) :
    (Instr.bitImm (.word 0x1234)).wellFormed true x = false ∧
      (Instr.bitImm (.byte 0x12)).wellFormed false x = false :=
  ⟨rfl, rfl⟩

theorem test_illFormed_ldyImm (m : Bool) :
    (Instr.ldyImm (.word 0x1234)).wellFormed m true = false ∧
      (Instr.ldyImm (.byte 0x12)).wellFormed m false = false :=
  ⟨rfl, rfl⟩

theorem test_illFormed_ldxImm (m : Bool) :
    (Instr.ldxImm (.word 0x1234)).wellFormed m true = false ∧
      (Instr.ldxImm (.byte 0x12)).wellFormed m false = false :=
  ⟨rfl, rfl⟩

theorem test_illFormed_ldaImm (x : Bool) :
    (Instr.ldaImm (.word 0x1234)).wellFormed true x = false ∧
      (Instr.ldaImm (.byte 0x12)).wellFormed false x = false :=
  ⟨rfl, rfl⟩

theorem test_illFormed_cpyImm (m : Bool) :
    (Instr.cpyImm (.word 0x1234)).wellFormed m true = false ∧
      (Instr.cpyImm (.byte 0x12)).wellFormed m false = false :=
  ⟨rfl, rfl⟩

theorem test_illFormed_cmpImm (x : Bool) :
    (Instr.cmpImm (.word 0x1234)).wellFormed true x = false ∧
      (Instr.cmpImm (.byte 0x12)).wellFormed false x = false :=
  ⟨rfl, rfl⟩

theorem test_illFormed_cpxImm (m : Bool) :
    (Instr.cpxImm (.word 0x1234)).wellFormed m true = false ∧
      (Instr.cpxImm (.byte 0x12)).wellFormed m false = false :=
  ⟨rfl, rfl⟩

theorem test_illFormed_sbcImm (x : Bool) :
    (Instr.sbcImm (.word 0x1234)).wellFormed true x = false ∧
      (Instr.sbcImm (.byte 0x12)).wellFormed false x = false :=
  ⟨rfl, rfl⟩

/-! ### The word of every opcode (R91, R95)

The bytes behind the opcode are 12, 34, 56; immediates are read with P.M = P.X = 1, then with 0. -/

/-- The decoder reads this instruction from an opcode followed by 12, 34, 56. -/
def reads (m x : Bool) (opcode : Byte) (i : Instr) : Prop :=
  ∃ rest, decode m x [opcode, 0x12, 0x34, 0x56] = .ok (i, rest)

theorem test_words_00_0F :
    reads true true 0x00 (.brk 0x12) ∧
    reads true true 0x01 (.oraDirXInd 0x12) ∧
    reads true true 0x02 (.cop 0x12) ∧
    reads true true 0x03 (.oraStk 0x12) ∧
    reads true true 0x04 (.tsbDir 0x12) ∧
    reads true true 0x05 (.oraDir 0x12) ∧
    reads true true 0x06 (.aslDir 0x12) ∧
    reads true true 0x07 (.oraDirLong 0x12) ∧
    reads true true 0x08 .php ∧
    reads true true 0x09 (.oraImm (.byte 0x12)) ∧
    reads true true 0x0A .aslAcc ∧
    reads true true 0x0B .phd ∧
    reads true true 0x0C (.tsbAbs 0x3412) ∧
    reads true true 0x0D (.oraAbs 0x3412) ∧
    reads true true 0x0E (.aslAbs 0x3412) ∧
    reads true true 0x0F (.oraLong 0x563412) := by
  refine ⟨?_, ?_, ?_, ?_, ?_, ?_, ?_, ?_, ?_, ?_, ?_, ?_, ?_, ?_, ?_, ?_⟩ <;> exact ⟨_, rfl⟩

theorem test_words_10_1F :
    reads true true 0x10 (.bpl 0x12) ∧
    reads true true 0x11 (.oraDirIndY 0x12) ∧
    reads true true 0x12 (.oraDirInd 0x12) ∧
    reads true true 0x13 (.oraStkIndY 0x12) ∧
    reads true true 0x14 (.trbDir 0x12) ∧
    reads true true 0x15 (.oraDirX 0x12) ∧
    reads true true 0x16 (.aslDirX 0x12) ∧
    reads true true 0x17 (.oraDirLongY 0x12) ∧
    reads true true 0x18 .clc ∧
    reads true true 0x19 (.oraAbsY 0x3412) ∧
    reads true true 0x1A .incAcc ∧
    reads true true 0x1B .tcs ∧
    reads true true 0x1C (.trbAbs 0x3412) ∧
    reads true true 0x1D (.oraAbsX 0x3412) ∧
    reads true true 0x1E (.aslAbsX 0x3412) ∧
    reads true true 0x1F (.oraLongX 0x563412) := by
  refine ⟨?_, ?_, ?_, ?_, ?_, ?_, ?_, ?_, ?_, ?_, ?_, ?_, ?_, ?_, ?_, ?_⟩ <;> exact ⟨_, rfl⟩

theorem test_words_20_2F :
    reads true true 0x20 (.jsrAbs 0x3412) ∧
    reads true true 0x21 (.andDirXInd 0x12) ∧
    reads true true 0x22 (.jslLong 0x563412) ∧
    reads true true 0x23 (.andStk 0x12) ∧
    reads true true 0x24 (.bitDir 0x12) ∧
    reads true true 0x25 (.andDir 0x12) ∧
    reads true true 0x26 (.rolDir 0x12) ∧
    reads true true 0x27 (.andDirLong 0x12) ∧
    reads true true 0x28 .plp ∧
    reads true true 0x29 (.andImm (.byte 0x12)) ∧
    reads true true 0x2A .rolAcc ∧
    reads true true 0x2B .pld ∧
    reads true true 0x2C (.bitAbs 0x3412) ∧
    reads true true 0x2D (.andAbs 0x3412) ∧
    reads true true 0x2E (.rolAbs 0x3412) ∧
    reads true true 0x2F (.andLong 0x563412) := by
  refine ⟨?_, ?_, ?_, ?_, ?_, ?_, ?_, ?_, ?_, ?_, ?_, ?_, ?_, ?_, ?_, ?_⟩ <;> exact ⟨_, rfl⟩

theorem test_words_30_3F :
    reads true true 0x30 (.bmi 0x12) ∧
    reads true true 0x31 (.andDirIndY 0x12) ∧
    reads true true 0x32 (.andDirInd 0x12) ∧
    reads true true 0x33 (.andStkIndY 0x12) ∧
    reads true true 0x34 (.bitDirX 0x12) ∧
    reads true true 0x35 (.andDirX 0x12) ∧
    reads true true 0x36 (.rolDirX 0x12) ∧
    reads true true 0x37 (.andDirLongY 0x12) ∧
    reads true true 0x38 .sec ∧
    reads true true 0x39 (.andAbsY 0x3412) ∧
    reads true true 0x3A .decAcc ∧
    reads true true 0x3B .tsc ∧
    reads true true 0x3C (.bitAbsX 0x3412) ∧
    reads true true 0x3D (.andAbsX 0x3412) ∧
    reads true true 0x3E (.rolAbsX 0x3412) ∧
    reads true true 0x3F (.andLongX 0x563412) := by
  refine ⟨?_, ?_, ?_, ?_, ?_, ?_, ?_, ?_, ?_, ?_, ?_, ?_, ?_, ?_, ?_, ?_⟩ <;> exact ⟨_, rfl⟩

theorem test_words_40_4F :
    reads true true 0x40 .rti ∧
    reads true true 0x41 (.eorDirXInd 0x12) ∧
    reads true true 0x42 (.wdm 0x12) ∧
    reads true true 0x43 (.eorStk 0x12) ∧
    reads true true 0x44 (.mvp 0x12 0x34) ∧
    reads true true 0x45 (.eorDir 0x12) ∧
    reads true true 0x46 (.lsrDir 0x12) ∧
    reads true true 0x47 (.eorDirLong 0x12) ∧
    reads true true 0x48 .pha ∧
    reads true true 0x49 (.eorImm (.byte 0x12)) ∧
    reads true true 0x4A .lsrAcc ∧
    reads true true 0x4B .phk ∧
    reads true true 0x4C (.jmpAbs 0x3412) ∧
    reads true true 0x4D (.eorAbs 0x3412) ∧
    reads true true 0x4E (.lsrAbs 0x3412) ∧
    reads true true 0x4F (.eorLong 0x563412) := by
  refine ⟨?_, ?_, ?_, ?_, ?_, ?_, ?_, ?_, ?_, ?_, ?_, ?_, ?_, ?_, ?_, ?_⟩ <;> exact ⟨_, rfl⟩

theorem test_words_50_5F :
    reads true true 0x50 (.bvc 0x12) ∧
    reads true true 0x51 (.eorDirIndY 0x12) ∧
    reads true true 0x52 (.eorDirInd 0x12) ∧
    reads true true 0x53 (.eorStkIndY 0x12) ∧
    reads true true 0x54 (.mvn 0x12 0x34) ∧
    reads true true 0x55 (.eorDirX 0x12) ∧
    reads true true 0x56 (.lsrDirX 0x12) ∧
    reads true true 0x57 (.eorDirLongY 0x12) ∧
    reads true true 0x58 .cli ∧
    reads true true 0x59 (.eorAbsY 0x3412) ∧
    reads true true 0x5A .phy ∧
    reads true true 0x5B .tcd ∧
    reads true true 0x5C (.jmpLong 0x563412) ∧
    reads true true 0x5D (.eorAbsX 0x3412) ∧
    reads true true 0x5E (.lsrAbsX 0x3412) ∧
    reads true true 0x5F (.eorLongX 0x563412) := by
  refine ⟨?_, ?_, ?_, ?_, ?_, ?_, ?_, ?_, ?_, ?_, ?_, ?_, ?_, ?_, ?_, ?_⟩ <;> exact ⟨_, rfl⟩

theorem test_words_60_6F :
    reads true true 0x60 .rts ∧
    reads true true 0x61 (.adcDirXInd 0x12) ∧
    reads true true 0x62 (.per 0x3412) ∧
    reads true true 0x63 (.adcStk 0x12) ∧
    reads true true 0x64 (.stzDir 0x12) ∧
    reads true true 0x65 (.adcDir 0x12) ∧
    reads true true 0x66 (.rorDir 0x12) ∧
    reads true true 0x67 (.adcDirLong 0x12) ∧
    reads true true 0x68 .pla ∧
    reads true true 0x69 (.adcImm (.byte 0x12)) ∧
    reads true true 0x6A .rorAcc ∧
    reads true true 0x6B .rtl ∧
    reads true true 0x6C (.jmpAbsInd 0x3412) ∧
    reads true true 0x6D (.adcAbs 0x3412) ∧
    reads true true 0x6E (.rorAbs 0x3412) ∧
    reads true true 0x6F (.adcLong 0x563412) := by
  refine ⟨?_, ?_, ?_, ?_, ?_, ?_, ?_, ?_, ?_, ?_, ?_, ?_, ?_, ?_, ?_, ?_⟩ <;> exact ⟨_, rfl⟩

theorem test_words_70_7F :
    reads true true 0x70 (.bvs 0x12) ∧
    reads true true 0x71 (.adcDirIndY 0x12) ∧
    reads true true 0x72 (.adcDirInd 0x12) ∧
    reads true true 0x73 (.adcStkIndY 0x12) ∧
    reads true true 0x74 (.stzDirX 0x12) ∧
    reads true true 0x75 (.adcDirX 0x12) ∧
    reads true true 0x76 (.rorDirX 0x12) ∧
    reads true true 0x77 (.adcDirLongY 0x12) ∧
    reads true true 0x78 .sei ∧
    reads true true 0x79 (.adcAbsY 0x3412) ∧
    reads true true 0x7A .ply ∧
    reads true true 0x7B .tdc ∧
    reads true true 0x7C (.jmpAbsXInd 0x3412) ∧
    reads true true 0x7D (.adcAbsX 0x3412) ∧
    reads true true 0x7E (.rorAbsX 0x3412) ∧
    reads true true 0x7F (.adcLongX 0x563412) := by
  refine ⟨?_, ?_, ?_, ?_, ?_, ?_, ?_, ?_, ?_, ?_, ?_, ?_, ?_, ?_, ?_, ?_⟩ <;> exact ⟨_, rfl⟩

theorem test_words_80_8F :
    reads true true 0x80 (.bra 0x12) ∧
    reads true true 0x81 (.staDirXInd 0x12) ∧
    reads true true 0x82 (.brl 0x3412) ∧
    reads true true 0x83 (.staStk 0x12) ∧
    reads true true 0x84 (.styDir 0x12) ∧
    reads true true 0x85 (.staDir 0x12) ∧
    reads true true 0x86 (.stxDir 0x12) ∧
    reads true true 0x87 (.staDirLong 0x12) ∧
    reads true true 0x88 .dey ∧
    reads true true 0x89 (.bitImm (.byte 0x12)) ∧
    reads true true 0x8A .txa ∧
    reads true true 0x8B .phb ∧
    reads true true 0x8C (.styAbs 0x3412) ∧
    reads true true 0x8D (.staAbs 0x3412) ∧
    reads true true 0x8E (.stxAbs 0x3412) ∧
    reads true true 0x8F (.staLong 0x563412) := by
  refine ⟨?_, ?_, ?_, ?_, ?_, ?_, ?_, ?_, ?_, ?_, ?_, ?_, ?_, ?_, ?_, ?_⟩ <;> exact ⟨_, rfl⟩

theorem test_words_90_9F :
    reads true true 0x90 (.bcc 0x12) ∧
    reads true true 0x91 (.staDirIndY 0x12) ∧
    reads true true 0x92 (.staDirInd 0x12) ∧
    reads true true 0x93 (.staStkIndY 0x12) ∧
    reads true true 0x94 (.styDirX 0x12) ∧
    reads true true 0x95 (.staDirX 0x12) ∧
    reads true true 0x96 (.stxDirY 0x12) ∧
    reads true true 0x97 (.staDirLongY 0x12) ∧
    reads true true 0x98 .tya ∧
    reads true true 0x99 (.staAbsY 0x3412) ∧
    reads true true 0x9A .txs ∧
    reads true true 0x9B .txy ∧
    reads true true 0x9C (.stzAbs 0x3412) ∧
    reads true true 0x9D (.staAbsX 0x3412) ∧
    reads true true 0x9E (.stzAbsX 0x3412) ∧
    reads true true 0x9F (.staLongX 0x563412) := by
  refine ⟨?_, ?_, ?_, ?_, ?_, ?_, ?_, ?_, ?_, ?_, ?_, ?_, ?_, ?_, ?_, ?_⟩ <;> exact ⟨_, rfl⟩

theorem test_words_A0_AF :
    reads true true 0xA0 (.ldyImm (.byte 0x12)) ∧
    reads true true 0xA1 (.ldaDirXInd 0x12) ∧
    reads true true 0xA2 (.ldxImm (.byte 0x12)) ∧
    reads true true 0xA3 (.ldaStk 0x12) ∧
    reads true true 0xA4 (.ldyDir 0x12) ∧
    reads true true 0xA5 (.ldaDir 0x12) ∧
    reads true true 0xA6 (.ldxDir 0x12) ∧
    reads true true 0xA7 (.ldaDirLong 0x12) ∧
    reads true true 0xA8 .tay ∧
    reads true true 0xA9 (.ldaImm (.byte 0x12)) ∧
    reads true true 0xAA .tax ∧
    reads true true 0xAB .plb ∧
    reads true true 0xAC (.ldyAbs 0x3412) ∧
    reads true true 0xAD (.ldaAbs 0x3412) ∧
    reads true true 0xAE (.ldxAbs 0x3412) ∧
    reads true true 0xAF (.ldaLong 0x563412) := by
  refine ⟨?_, ?_, ?_, ?_, ?_, ?_, ?_, ?_, ?_, ?_, ?_, ?_, ?_, ?_, ?_, ?_⟩ <;> exact ⟨_, rfl⟩

theorem test_words_B0_BF :
    reads true true 0xB0 (.bcs 0x12) ∧
    reads true true 0xB1 (.ldaDirIndY 0x12) ∧
    reads true true 0xB2 (.ldaDirInd 0x12) ∧
    reads true true 0xB3 (.ldaStkIndY 0x12) ∧
    reads true true 0xB4 (.ldyDirX 0x12) ∧
    reads true true 0xB5 (.ldaDirX 0x12) ∧
    reads true true 0xB6 (.ldxDirY 0x12) ∧
    reads true true 0xB7 (.ldaDirLongY 0x12) ∧
    reads true true 0xB8 .clv ∧
    reads true true 0xB9 (.ldaAbsY 0x3412) ∧
    reads true true 0xBA .tsx ∧
    reads true true 0xBB .tyx ∧
    reads true true 0xBC (.ldyAbsX 0x3412) ∧
    reads true true 0xBD (.ldaAbsX 0x3412) ∧
    reads true true 0xBE (.ldxAbsY 0x3412) ∧
    reads true true 0xBF (.ldaLongX 0x563412) := by
  refine ⟨?_, ?_, ?_, ?_, ?_, ?_, ?_, ?_, ?_, ?_, ?_, ?_, ?_, ?_, ?_, ?_⟩ <;> exact ⟨_, rfl⟩

theorem test_words_C0_CF :
    reads true true 0xC0 (.cpyImm (.byte 0x12)) ∧
    reads true true 0xC1 (.cmpDirXInd 0x12) ∧
    reads true true 0xC2 (.repImm 0x12) ∧
    reads true true 0xC3 (.cmpStk 0x12) ∧
    reads true true 0xC4 (.cpyDir 0x12) ∧
    reads true true 0xC5 (.cmpDir 0x12) ∧
    reads true true 0xC6 (.decDir 0x12) ∧
    reads true true 0xC7 (.cmpDirLong 0x12) ∧
    reads true true 0xC8 .iny ∧
    reads true true 0xC9 (.cmpImm (.byte 0x12)) ∧
    reads true true 0xCA .dex ∧
    reads true true 0xCB .wai ∧
    reads true true 0xCC (.cpyAbs 0x3412) ∧
    reads true true 0xCD (.cmpAbs 0x3412) ∧
    reads true true 0xCE (.decAbs 0x3412) ∧
    reads true true 0xCF (.cmpLong 0x563412) := by
  refine ⟨?_, ?_, ?_, ?_, ?_, ?_, ?_, ?_, ?_, ?_, ?_, ?_, ?_, ?_, ?_, ?_⟩ <;> exact ⟨_, rfl⟩

theorem test_words_D0_DF :
    reads true true 0xD0 (.bne 0x12) ∧
    reads true true 0xD1 (.cmpDirIndY 0x12) ∧
    reads true true 0xD2 (.cmpDirInd 0x12) ∧
    reads true true 0xD3 (.cmpStkIndY 0x12) ∧
    reads true true 0xD4 (.pei 0x12) ∧
    reads true true 0xD5 (.cmpDirX 0x12) ∧
    reads true true 0xD6 (.decDirX 0x12) ∧
    reads true true 0xD7 (.cmpDirLongY 0x12) ∧
    reads true true 0xD8 .cld ∧
    reads true true 0xD9 (.cmpAbsY 0x3412) ∧
    reads true true 0xDA .phx ∧
    reads true true 0xDB .stp ∧
    reads true true 0xDC (.jmlAbsInd 0x3412) ∧
    reads true true 0xDD (.cmpAbsX 0x3412) ∧
    reads true true 0xDE (.decAbsX 0x3412) ∧
    reads true true 0xDF (.cmpLongX 0x563412) := by
  refine ⟨?_, ?_, ?_, ?_, ?_, ?_, ?_, ?_, ?_, ?_, ?_, ?_, ?_, ?_, ?_, ?_⟩ <;> exact ⟨_, rfl⟩

theorem test_words_E0_EF :
    reads true true 0xE0 (.cpxImm (.byte 0x12)) ∧
    reads true true 0xE1 (.sbcDirXInd 0x12) ∧
    reads true true 0xE2 (.sepImm 0x12) ∧
    reads true true 0xE3 (.sbcStk 0x12) ∧
    reads true true 0xE4 (.cpxDir 0x12) ∧
    reads true true 0xE5 (.sbcDir 0x12) ∧
    reads true true 0xE6 (.incDir 0x12) ∧
    reads true true 0xE7 (.sbcDirLong 0x12) ∧
    reads true true 0xE8 .inx ∧
    reads true true 0xE9 (.sbcImm (.byte 0x12)) ∧
    reads true true 0xEA .nop ∧
    reads true true 0xEB .xba ∧
    reads true true 0xEC (.cpxAbs 0x3412) ∧
    reads true true 0xED (.sbcAbs 0x3412) ∧
    reads true true 0xEE (.incAbs 0x3412) ∧
    reads true true 0xEF (.sbcLong 0x563412) := by
  refine ⟨?_, ?_, ?_, ?_, ?_, ?_, ?_, ?_, ?_, ?_, ?_, ?_, ?_, ?_, ?_, ?_⟩ <;> exact ⟨_, rfl⟩

theorem test_words_F0_FF :
    reads true true 0xF0 (.beq 0x12) ∧
    reads true true 0xF1 (.sbcDirIndY 0x12) ∧
    reads true true 0xF2 (.sbcDirInd 0x12) ∧
    reads true true 0xF3 (.sbcStkIndY 0x12) ∧
    reads true true 0xF4 (.pea 0x3412) ∧
    reads true true 0xF5 (.sbcDirX 0x12) ∧
    reads true true 0xF6 (.incDirX 0x12) ∧
    reads true true 0xF7 (.sbcDirLongY 0x12) ∧
    reads true true 0xF8 .sed ∧
    reads true true 0xF9 (.sbcAbsY 0x3412) ∧
    reads true true 0xFA .plx ∧
    reads true true 0xFB .xce ∧
    reads true true 0xFC (.jsrAbsXInd 0x3412) ∧
    reads true true 0xFD (.sbcAbsX 0x3412) ∧
    reads true true 0xFE (.incAbsX 0x3412) ∧
    reads true true 0xFF (.sbcLongX 0x563412) := by
  refine ⟨?_, ?_, ?_, ?_, ?_, ?_, ?_, ?_, ?_, ?_, ?_, ?_, ?_, ?_, ?_, ?_⟩ <;> exact ⟨_, rfl⟩

theorem test_words_wide_immediates :
    reads false false 0x09 (.oraImm (.word 0x3412)) ∧
    reads false false 0x29 (.andImm (.word 0x3412)) ∧
    reads false false 0x49 (.eorImm (.word 0x3412)) ∧
    reads false false 0x69 (.adcImm (.word 0x3412)) ∧
    reads false false 0x89 (.bitImm (.word 0x3412)) ∧
    reads false false 0xA0 (.ldyImm (.word 0x3412)) ∧
    reads false false 0xA2 (.ldxImm (.word 0x3412)) ∧
    reads false false 0xA9 (.ldaImm (.word 0x3412)) ∧
    reads false false 0xC0 (.cpyImm (.word 0x3412)) ∧
    reads false false 0xC9 (.cmpImm (.word 0x3412)) ∧
    reads false false 0xE0 (.cpxImm (.word 0x3412)) ∧
    reads false false 0xE9 (.sbcImm (.word 0x3412)) := by
  refine ⟨?_, ?_, ?_, ?_, ?_, ?_, ?_, ?_, ?_, ?_, ?_, ?_⟩ <;> exact ⟨_, rfl⟩

/-! ### Single steps

The names are those of 95_test_vectors.md or, where they begin with a number, of the example in the section
file with that number. -/

/-- A W65C816 about to run the bytes at 00:8000, with other bytes in memory. -/
def start (c x y sp d : Word) (dbr p : Byte) (e : Bool) (code : List Byte) (cells : List (Nat × Byte)) : State :=
  let mem := cells.foldl (fun (m : Memory) b => m.write b.1 b.2)
    (code.zipIdx.map fun b => (0x8000 + b.2, b.1))
  { State.reset with
    c := c, x := x, y := y, sp := sp, d := d, pc := 0x8000, dbr := dbr, p := p, e := e, mem := mem }

/-- C, X, Y, S, D, PC, DBR, PBR, P, E after a step, and the bytes at the given addresses. -/
def after (s : State) (addrs : List Nat) : Option (List Nat) :=
  match step s with
  | .next t =>
    some ([t.c.toNat, t.x.toNat, t.y.toNat, t.sp.toNat, t.d.toNat, t.pc.toNat, t.dbr.toNat, t.pbr.toNat,
      t.p.toNat, t.e.toNat] ++ addrs.map fun a => (t.mem.read a).toNat)
  | .fault _ => none
  | .refused _ => none

theorem test_LS1_ldaImm :
    after (start 0x0 0x0 0x0 0x1FF 0x0 0x0 0x0 false [0xA9, 0x34, 0x92]
      []) [] =
      some [37428, 0, 0, 511, 0, 32771, 0, 0, 128, 0] := by
  decide

theorem test_LS3_ldxImm :
    after (start 0x0 0x0 0x0 0x1FF 0x0 0x0 0x10 false [0xA2, 0x80]
      []) [] =
      some [0, 128, 0, 511, 0, 32770, 0, 0, 144, 0] := by
  decide

theorem test_LS4_ldyImm :
    after (start 0x0 0x0 0x5555 0x1FF 0x0 0x0 0x0 false [0xA0, 0x00, 0x00]
      []) [] =
      some [0, 0, 0, 511, 0, 32771, 0, 0, 2, 0] := by
  decide

theorem test_LS5_ldaAbs :
    after (start 0x0 0x0 0x0 0x1FF 0x0 0x12 0x0 false [0xAD, 0xFF, 0xFF]
      [(0x12FFFF, 0xCD), (0x130000, 0xAB)]) [] =
      some [43981, 0, 0, 511, 0, 32771, 18, 0, 128, 0] := by
  decide

theorem test_LS23_staAbs :
    after (start 0xBEEF 0x0 0x0 0x1FF 0x0 0x1 0x0 false [0x8D, 0x00, 0x20]
      []) [0x12000, 0x12001] =
      some [48879, 0, 0, 511, 0, 32771, 1, 0, 0, 0, 239, 190] := by
  decide

theorem test_LS24_staDir :
    after (start 0xBEEF 0x0 0x0 0x1FF 0x200 0x0 0x20 false [0x85, 0x10]
      []) [0x210] =
      some [48879, 0, 0, 511, 512, 32770, 0, 0, 32, 0, 239] := by
  decide

theorem test_LS25_stxAbs :
    after (start 0x0 0xAA 0x0 0x1FF 0x0 0x0 0x10 false [0x8E, 0x00, 0x30]
      []) [0x3000] =
      some [0, 170, 0, 511, 0, 32771, 0, 0, 16, 0, 170] := by
  decide

theorem test_LS26_styDirX :
    after (start 0x0 0x1 0x1234 0x1FF 0x0 0x0 0x0 false [0x94, 0x02]
      []) [0x3, 0x4] =
      some [0, 1, 4660, 511, 0, 32770, 0, 0, 0, 0, 52, 18] := by
  decide

theorem test_LS27_stzAbsX :
    after (start 0x0 0x2 0x0 0x1FF 0x0 0x0 0x0 false [0x9E, 0x00, 0x40]
      [(0x4002, 0xFF), (0x4003, 0xFF)]) [0x4002, 0x4003] =
      some [0, 2, 0, 511, 0, 32771, 0, 0, 0, 0, 0, 0] := by
  decide

theorem test_AR1_adcImm :
    after (start 0x50 0x0 0x0 0x1FF 0x0 0x0 0x20 false [0x69, 0x50]
      []) [] =
      some [160, 0, 0, 511, 0, 32770, 0, 0, 224, 0] := by
  decide

theorem test_AR6_adcDir :
    after (start 0x10 0x0 0x0 0x1FF 0x0 0x0 0x20 false [0x65, 0x10]
      [(0x10, 0x22)]) [] =
      some [50, 0, 0, 511, 0, 32770, 0, 0, 32, 0] := by
  decide

theorem test_AR7_sbcImm :
    after (start 0x3 0x0 0x0 0x1FF 0x0 0x0 0x21 false [0xE9, 0x01]
      []) [] =
      some [2, 0, 0, 511, 0, 32770, 0, 0, 33, 0] := by
  decide

theorem test_LG1_andImm :
    after (start 0x12F0 0x0 0x0 0x1FF 0x0 0x0 0x20 false [0x29, 0x0F]
      []) [] =
      some [4608, 0, 0, 511, 0, 32770, 0, 0, 34, 0] := by
  decide

theorem test_LG3_oraDir :
    after (start 0x1 0x0 0x0 0x1FF 0x0 0x0 0x0 false [0x05, 0x10]
      [(0x10, 0x00), (0x11, 0x80)]) [] =
      some [32769, 0, 0, 511, 0, 32770, 0, 0, 128, 0] := by
  decide

theorem test_LG4_eorImm :
    after (start 0xFF 0x0 0x0 0x1FF 0x0 0x0 0x20 false [0x49, 0xFF]
      []) [] =
      some [0, 0, 0, 511, 0, 32770, 0, 0, 34, 0] := by
  decide

theorem test_CP1_cmpImm :
    after (start 0x40 0x0 0x0 0x1FF 0x0 0x0 0x20 false [0xC9, 0x40]
      []) [] =
      some [64, 0, 0, 511, 0, 32770, 0, 0, 35, 0] := by
  decide

theorem test_CP6_cpxImm :
    after (start 0x0 0x10 0x0 0x1FF 0x0 0x0 0x10 false [0xE0, 0x10]
      []) [] =
      some [0, 16, 0, 511, 0, 32770, 0, 0, 19, 0] := by
  decide

theorem test_CP8_cpyDir :
    after (start 0x0 0x0 0x8000 0x1FF 0x0 0x0 0x0 false [0xC4, 0x20]
      [(0x20, 0x01), (0x21, 0x00)]) [] =
      some [0, 0, 32768, 511, 0, 32770, 0, 0, 1, 0] := by
  decide

theorem test_BT1_bitImm :
    after (start 0x7F 0x0 0x0 0x1FF 0x0 0x0 0xE0 false [0x89, 0x80]
      []) [] =
      some [127, 0, 0, 511, 0, 32770, 0, 0, 226, 0] := by
  decide

theorem test_ID1_incAcc :
    after (start 0x12FF 0x0 0x0 0x1FF 0x0 0x0 0x20 false [0x1A]
      []) [] =
      some [4608, 0, 0, 511, 0, 32769, 0, 0, 34, 0] := by
  decide

theorem test_ID3_decAcc :
    after (start 0x0 0x0 0x0 0x1FF 0x0 0x0 0x41 false [0x3A]
      []) [] =
      some [65535, 0, 0, 511, 0, 32769, 0, 0, 193, 0] := by
  decide

theorem test_ID7_inx :
    after (start 0x0 0xFF 0x0 0x1FF 0x0 0x0 0x10 false [0xE8]
      []) [] =
      some [0, 0, 0, 511, 0, 32769, 0, 0, 18, 0] := by
  decide

theorem test_ID9_dex :
    after (start 0x0 0x0 0x0 0x1FF 0x0 0x0 0x0 false [0xCA]
      []) [] =
      some [0, 65535, 0, 511, 0, 32769, 0, 0, 128, 0] := by
  decide

theorem test_ID10_dey :
    after (start 0x0 0x0 0x0 0x1FF 0x0 0x0 0x10 false [0x88]
      []) [] =
      some [0, 0, 255, 511, 0, 32769, 0, 0, 144, 0] := by
  decide

theorem test_ID11_iny :
    after (start 0x0 0x0 0xFFFF 0x1FF 0x0 0x0 0x0 false [0xC8]
      []) [] =
      some [0, 0, 0, 511, 0, 32769, 0, 0, 2, 0] := by
  decide

theorem test_SH1_aslAcc :
    after (start 0x5581 0x0 0x0 0x1FF 0x0 0x0 0x20 false [0x0A]
      []) [] =
      some [21762, 0, 0, 511, 0, 32769, 0, 0, 33, 0] := by
  decide

theorem test_SH3_lsrAcc :
    after (start 0x1 0x0 0x0 0x1FF 0x0 0x0 0xA0 false [0x4A]
      []) [] =
      some [0, 0, 0, 511, 0, 32769, 0, 0, 35, 0] := by
  decide

theorem test_SH5_rolAcc :
    after (start 0x80 0x0 0x0 0x1FF 0x0 0x0 0x21 false [0x2A]
      []) [] =
      some [1, 0, 0, 511, 0, 32769, 0, 0, 33, 0] := by
  decide

theorem test_SH7_rorAcc :
    after (start 0x2 0x0 0x0 0x1FF 0x0 0x0 0x21 false [0x6A]
      []) [] =
      some [129, 0, 0, 511, 0, 32769, 0, 0, 160, 0] := by
  decide

theorem test_TB1_tsbDir :
    after (start 0x81 0x0 0x0 0x1FF 0x0 0x0 0x20 false [0x04, 0x10]
      [(0x10, 0x0F)]) [0x10] =
      some [129, 0, 0, 511, 0, 32770, 0, 0, 32, 0, 143] := by
  decide

theorem test_TB3_trbDir :
    after (start 0x81 0x0 0x0 0x1FF 0x0 0x0 0x20 false [0x14, 0x10]
      [(0x10, 0x8F)]) [0x10] =
      some [129, 0, 0, 511, 0, 32770, 0, 0, 32, 0, 14] := by
  decide

theorem test_TR1_tax :
    after (start 0x8012 0x0 0x0 0x1FF 0x0 0x0 0x20 false [0xAA]
      []) [] =
      some [32786, 32786, 0, 511, 0, 32769, 0, 0, 160, 0] := by
  decide

theorem test_TR3_tay :
    after (start 0x0 0x0 0x1111 0x1FF 0x0 0x0 0x0 false [0xA8]
      []) [] =
      some [0, 0, 0, 511, 0, 32769, 0, 0, 2, 0] := by
  decide

theorem test_TR4_txa :
    after (start 0xFFFF 0x80 0x0 0x1FF 0x0 0x0 0x10 false [0x8A]
      []) [] =
      some [128, 128, 0, 511, 0, 32769, 0, 0, 16, 0] := by
  decide

theorem test_TR6_tya :
    after (start 0x0 0x0 0x8000 0x1FF 0x0 0x0 0x0 false [0x98]
      []) [] =
      some [32768, 0, 32768, 511, 0, 32769, 0, 0, 128, 0] := by
  decide

theorem test_TR7_txy :
    after (start 0x0 0xABCD 0x0 0x1FF 0x0 0x0 0x0 false [0x9B]
      []) [] =
      some [0, 43981, 43981, 511, 0, 32769, 0, 0, 128, 0] := by
  decide

theorem test_TR8_tyx :
    after (start 0x0 0x55 0x0 0x1FF 0x0 0x0 0x10 false [0xBB]
      []) [] =
      some [0, 0, 0, 511, 0, 32769, 0, 0, 18, 0] := by
  decide

theorem test_TR9_tsx :
    after (start 0x0 0x0 0x0 0x1FF0 0x0 0x0 0x0 false [0xBA]
      []) [] =
      some [0, 8176, 0, 8176, 0, 32769, 0, 0, 0, 0] := by
  decide

theorem test_TR11_txs :
    after (start 0x0 0x0 0x0 0x1234 0x0 0x0 0x0 false [0x9A]
      []) [] =
      some [0, 0, 0, 0, 0, 32769, 0, 0, 0, 0] := by
  decide

theorem test_TR14_tcs :
    after (start 0x2FFF 0x0 0x0 0x1FF 0x0 0x0 0x20 false [0x1B]
      []) [] =
      some [12287, 0, 0, 12287, 0, 32769, 0, 0, 32, 0] := by
  decide

theorem test_TR16_tsc :
    after (start 0xFFFF 0x0 0x0 0x180 0x0 0x0 0x30 true [0x3B]
      []) [] =
      some [384, 0, 0, 384, 0, 32769, 0, 0, 48, 1] := by
  decide

theorem test_TR18_tcd :
    after (start 0x8000 0x0 0x0 0x1FF 0x0 0x0 0x20 false [0x5B]
      []) [] =
      some [32768, 0, 0, 511, 32768, 32769, 0, 0, 160, 0] := by
  decide

theorem test_TR19_tdc :
    after (start 0x1234 0x0 0x0 0x1FF 0x0 0x0 0x0 false [0x7B]
      []) [] =
      some [0, 0, 0, 511, 0, 32769, 0, 0, 2, 0] := by
  decide

theorem test_TR20_xba :
    after (start 0x8000 0x0 0x0 0x1FF 0x0 0x0 0x0 false [0xEB]
      []) [] =
      some [128, 0, 0, 511, 0, 32769, 0, 0, 128, 0] := by
  decide

theorem test_ST1_pha :
    after (start 0x12AB 0x0 0x0 0x1FF 0x0 0x0 0x20 false [0x48]
      []) [0x1FF] =
      some [4779, 0, 0, 510, 0, 32769, 0, 0, 32, 0, 171] := by
  decide

theorem test_ST4_phd :
    after (start 0x0 0x0 0x0 0x100 0x1234 0x0 0x30 true [0x0B]
      []) [0xFF, 0x100] =
      some [0, 0, 0, 510, 4660, 32769, 0, 0, 48, 1, 52, 18] := by
  decide

theorem test_ST5_phx :
    after (start 0x0 0xA1B2 0x0 0x0 0x0 0x0 0x0 false [0xDA]
      []) [0x0, 0xFFFF] =
      some [0, 41394, 0, 65534, 0, 32769, 0, 0, 0, 0, 161, 178] := by
  decide

theorem test_ST6_phy :
    after (start 0x0 0x0 0x33 0x1FF 0x0 0x0 0x10 false [0x5A]
      []) [0x1FF] =
      some [0, 0, 51, 510, 0, 32769, 0, 0, 16, 0, 51] := by
  decide

theorem test_ST7_php :
    after (start 0x0 0x0 0x0 0x1FF 0x0 0x0 0xC3 false [0x08]
      []) [0x1FF] =
      some [0, 0, 0, 510, 0, 32769, 0, 0, 195, 0, 195] := by
  decide

theorem test_ST9_phb :
    after (start 0x0 0x0 0x0 0x1FF 0x0 0x7E 0x0 false [0x8B]
      []) [0x1FF] =
      some [0, 0, 0, 510, 0, 32769, 126, 0, 0, 0, 126] := by
  decide

theorem test_ST11_pla :
    after (start 0x0 0x0 0x0 0x1FD 0x0 0x0 0x0 false [0x68]
      [(0x1FE, 0x00), (0x1FF, 0x80)]) [] =
      some [32768, 0, 0, 511, 0, 32769, 0, 0, 128, 0] := by
  decide

theorem test_ST14_plx :
    after (start 0x0 0x0 0x0 0x1FE 0x0 0x0 0x10 false [0xFA]
      [(0x1FF, 0xFF)]) [] =
      some [0, 255, 0, 511, 0, 32769, 0, 0, 144, 0] := by
  decide

theorem test_ST15_ply :
    after (start 0x0 0x0 0x0 0x1FD 0x0 0x0 0x0 false [0x7A]
      [(0x1FE, 0x34), (0x1FF, 0x12)]) [] =
      some [0, 0, 4660, 511, 0, 32769, 0, 0, 0, 0] := by
  decide

theorem test_ST16_plp :
    after (start 0x0 0x1234 0xABCD 0x1FE 0x0 0x0 0x0 false [0x28]
      [(0x1FF, 0x10)]) [] =
      some [0, 52, 205, 511, 0, 32769, 0, 0, 16, 0] := by
  decide

theorem test_ST18_plb :
    after (start 0x0 0x0 0x0 0x1FE 0x0 0x0 0x0 false [0xAB]
      [(0x1FF, 0x80)]) [] =
      some [0, 0, 0, 511, 0, 32769, 128, 0, 128, 0] := by
  decide

theorem test_ST19_pld :
    after (start 0x0 0x0 0x0 0x1FF 0x0 0x0 0x30 true [0x2B]
      [(0x100, 0xEE), (0x101, 0xEE), (0x200, 0x00), (0x201, 0x30)]) [] =
      some [0, 0, 0, 257, 12288, 32769, 0, 0, 48, 1] := by
  decide

theorem test_ST21_pea :
    after (start 0x0 0x0 0x0 0x1FF 0x0 0x0 0x0 false [0xF4, 0x34, 0x12]
      []) [0x1FE, 0x1FF] =
      some [0, 0, 0, 509, 0, 32771, 0, 0, 0, 0, 52, 18] := by
  decide

theorem test_ST22_pei :
    after (start 0x0 0x0 0x0 0x1FF 0x100 0x0 0x0 false [0xD4, 0x10]
      [(0x110, 0xCD), (0x111, 0xAB)]) [0x1FE, 0x1FF] =
      some [0, 0, 0, 509, 256, 32770, 0, 0, 0, 0, 205, 171] := by
  decide

theorem test_ST24_per :
    after (start 0x0 0x0 0x0 0x1FF 0x0 0x0 0x0 false [0x62, 0x10, 0x00]
      []) [0x1FE, 0x1FF] =
      some [0, 0, 0, 509, 0, 32771, 0, 0, 0, 0, 19, 128] := by
  decide

theorem test_BR1a_bcc :
    after (start 0x0 0x0 0x0 0x1FF 0x0 0x0 0x0 false [0x90, 0x10]
      []) [] =
      some [0, 0, 0, 511, 0, 32786, 0, 0, 0, 0] := by
  decide

theorem test_BR2a_bcs :
    after (start 0x0 0x0 0x0 0x1FF 0x0 0x0 0x1 false [0xB0, 0x10]
      []) [] =
      some [0, 0, 0, 511, 0, 32786, 0, 0, 1, 0] := by
  decide

theorem test_BR3a_beq :
    after (start 0x0 0x0 0x0 0x1FF 0x0 0x0 0x2 false [0xF0, 0x10]
      []) [] =
      some [0, 0, 0, 511, 0, 32786, 0, 0, 2, 0] := by
  decide

theorem test_BR4a_bne :
    after (start 0x0 0x0 0x0 0x1FF 0x0 0x0 0x0 false [0xD0, 0x10]
      []) [] =
      some [0, 0, 0, 511, 0, 32786, 0, 0, 0, 0] := by
  decide

theorem test_BR5a_bmi :
    after (start 0x0 0x0 0x0 0x1FF 0x0 0x0 0x80 false [0x30, 0x10]
      []) [] =
      some [0, 0, 0, 511, 0, 32786, 0, 0, 128, 0] := by
  decide

theorem test_BR6a_bpl :
    after (start 0x0 0x0 0x0 0x1FF 0x0 0x0 0x0 false [0x10, 0x10]
      []) [] =
      some [0, 0, 0, 511, 0, 32786, 0, 0, 0, 0] := by
  decide

theorem test_BR7a_bvc :
    after (start 0x0 0x0 0x0 0x1FF 0x0 0x0 0x0 false [0x50, 0x10]
      []) [] =
      some [0, 0, 0, 511, 0, 32786, 0, 0, 0, 0] := by
  decide

theorem test_BR8a_bvs :
    after (start 0x0 0x0 0x0 0x1FF 0x0 0x0 0x40 false [0x70, 0x10]
      []) [] =
      some [0, 0, 0, 511, 0, 32786, 0, 0, 64, 0] := by
  decide

theorem test_BR9_bra :
    after (start 0x0 0x0 0x0 0x1FF 0x0 0x0 0x0 false [0x80, 0xFE]
      []) [] =
      some [0, 0, 0, 511, 0, 32768, 0, 0, 0, 0] := by
  decide

theorem test_BR12_brl :
    after (start 0x0 0x0 0x0 0x1FF 0x0 0x0 0x0 false [0x82, 0x00, 0x10]
      []) [] =
      some [0, 0, 0, 511, 0, 36867, 0, 0, 0, 0] := by
  decide

theorem test_JS3_rts :
    after (start 0x0 0x0 0x0 0x1FD 0x0 0x0 0x0 false [0x60]
      [(0x1FE, 0xFF), (0x1FF, 0xFF)]) [] =
      some [0, 0, 0, 511, 0, 0, 0, 0, 0, 0] := by
  decide

theorem test_JS4_jsrAbsXInd :
    after (start 0x0 0x4 0x0 0x100 0x0 0x0 0x30 true [0xFC, 0x00, 0x90]
      [(0x9004, 0x00), (0x9005, 0xA0)]) [0xFF, 0x100] =
      some [0, 4, 0, 510, 0, 40960, 0, 0, 48, 1, 2, 128] := by
  decide

theorem test_JS5_jsrAbs :
    after (start 0x0 0x0 0x0 0x100 0x0 0x0 0x30 true [0x20, 0x00, 0x90]
      []) [0x100, 0x1FF] =
      some [0, 0, 0, 510, 0, 36864, 0, 0, 48, 1, 128, 2] := by
  decide

theorem test_JS8_rtl :
    after (start 0x0 0x0 0x0 0x1FE 0x0 0x0 0x30 true [0x6B]
      [(0x100, 0xEE), (0x101, 0xEE), (0x1FF, 0x03), (0x200, 0x80), (0x201, 0x05)]) [] =
      some [0, 0, 0, 257, 0, 32772, 0, 5, 48, 1] := by
  decide

theorem test_SF1_clc :
    after (start 0x0 0x0 0x0 0x1FF 0x0 0x0 0xFF false [0x18]
      []) [] =
      some [0, 0, 0, 511, 0, 32769, 0, 0, 254, 0] := by
  decide

theorem test_SF2_sec :
    after (start 0x0 0x0 0x0 0x1FF 0x0 0x0 0x0 false [0x38]
      []) [] =
      some [0, 0, 0, 511, 0, 32769, 0, 0, 1, 0] := by
  decide

theorem test_SF3_cld :
    after (start 0x0 0x0 0x0 0x1FF 0x0 0x0 0x8 false [0xD8]
      []) [] =
      some [0, 0, 0, 511, 0, 32769, 0, 0, 0, 0] := by
  decide

theorem test_SF4_sed :
    after (start 0x0 0x0 0x0 0x1FF 0x0 0x0 0x0 false [0xF8]
      []) [] =
      some [0, 0, 0, 511, 0, 32769, 0, 0, 8, 0] := by
  decide

theorem test_SF5_cli :
    after (start 0x0 0x0 0x0 0x1FF 0x0 0x0 0x4 false [0x58]
      []) [] =
      some [0, 0, 0, 511, 0, 32769, 0, 0, 0, 0] := by
  decide

theorem test_SF6_sei :
    after (start 0x0 0x0 0x0 0x1FF 0x0 0x0 0x0 false [0x78]
      []) [] =
      some [0, 0, 0, 511, 0, 32769, 0, 0, 4, 0] := by
  decide

theorem test_SF7_clv :
    after (start 0x0 0x0 0x0 0x1FF 0x0 0x0 0x40 false [0xB8]
      []) [] =
      some [0, 0, 0, 511, 0, 32769, 0, 0, 0, 0] := by
  decide

theorem test_SF8_repImm :
    after (start 0x0 0x0 0x0 0x1FF 0x0 0x0 0x35 false [0xC2, 0x30]
      []) [] =
      some [0, 0, 0, 511, 0, 32770, 0, 0, 5, 0] := by
  decide

theorem test_SF10_sepImm :
    after (start 0x0 0x1234 0xFFFF 0x1FF 0x0 0x0 0x0 false [0xE2, 0x10]
      []) [] =
      some [0, 52, 255, 511, 0, 32770, 0, 0, 16, 0] := by
  decide

theorem test_SF13_xce :
    after (start 0x0 0x0 0x0 0x1F0 0x0 0x0 0x30 true [0xFB]
      []) [] =
      some [0, 0, 0, 496, 0, 32769, 0, 0, 49, 0] := by
  decide

theorem test_BM2_mvn :
    after (start 0x2 0x1000 0x2000 0x1FF 0x0 0x0 0x0 false [0x54, 0x02, 0x01]
      [(0x11000, 0xAA), (0x11001, 0xBB), (0x11002, 0xCC)]) [0x22000] =
      some [1, 4097, 8193, 511, 0, 32768, 2, 0, 0, 0, 170] := by
  decide

theorem test_SY3_cop :
    after (start 0x0 0x0 0x0 0x2 0x0 0x0 0x0 false [0x02, 0x7F]
      [(0xFFE4, 0x34), (0xFFE5, 0x12)]) [0x0, 0x1, 0x2, 0xFFFF] =
      some [0, 0, 0, 65534, 0, 4660, 0, 0, 4, 0, 2, 128, 0, 0] := by
  decide

theorem test_SY5_rti :
    after (start 0x0 0x1234 0x0 0x1FB 0x0 0x0 0x4 false [0x40]
      [(0x1FC, 0x31), (0x1FD, 0x56), (0x1FE, 0x34), (0x1FF, 0x12)]) [] =
      some [0, 52, 0, 511, 0, 13398, 0, 18, 49, 0] := by
  decide

theorem test_SY8_nop :
    after (start 0x0 0x0 0x0 0x1FF 0x0 0x0 0xC3 false [0xEA]
      []) [] =
      some [0, 0, 0, 511, 0, 32769, 0, 0, 195, 0] := by
  decide

theorem test_SY9_wdm :
    after (start 0x0 0x0 0x0 0x1FF 0x0 0x0 0xC3 false [0x42, 0xFF]
      []) [] =
      some [0, 0, 0, 511, 0, 32770, 0, 0, 195, 0] := by
  decide

theorem test_47_440201_mvp :
    after (start 0x0 0x1001 0x2001 0x1FF 0x0 0x0 0x0 false [0x44, 0x02, 0x01]
      [(0x11001, 0xBB)]) [0x22001] =
      some [65535, 4096, 8192, 511, 0, 32771, 2, 0, 0, 0, 187] := by
  decide

theorem test_48_0000_brk :
    after (start 0x0 0x0 0x0 0x1FF 0x0 0x0 0x8 false [0x00, 0x00]
      [(0xFFE6, 0x00), (0xFFE7, 0x90)]) [0x1FC, 0x1FD, 0x1FE, 0x1FF] =
      some [0, 0, 0, 507, 0, 36864, 0, 0, 4, 0, 8, 2, 128, 0] := by
  decide

/-- JP1: JMP a keeps PBR. -/
theorem test_JP1_jmpAbs :
    (match step { (start 0 0 0 0x1FF 0 0 0 false [] [(0x58000, 0x4C), (0x58001, 0x34), (0x58002, 0x12)]) with
        pbr := 0x05 } with
      | .next t => t.pc == 0x1234 && t.pbr == 0x05
      | _ => false) = true := by
  decide

/-- JP5: JML (a) reads a three-byte pointer in bank 0. -/
theorem test_JP5_jmlAbsInd :
    (match step { (start 0 0 0 0x1FF 0 0 0 false [] [(0x58000, 0xDC), (0x58001, 0x00), (0x58002, 0x20),
        (0x2000, 0x00), (0x2001, 0x80), (0x2002, 0x12)]) with pbr := 0x05 } with
      | .next t => t.pc == 0x8000 && t.pbr == 0x12
      | _ => false) = true := by
  decide

/-- JS6: JSL pushes PBR and the address of its last byte; the bank byte is fetched after the first push. -/
theorem test_JS6_jslLong :
    (match step { (start 0 0 0 0x1FF 0 0 0 false [] [(0x58000, 0x22), (0x58001, 0x00), (0x58002, 0x90),
        (0x58003, 0x12)]) with pbr := 0x05 } with
      | .next t => t.pc == 0x9000 && t.pbr == 0x12 && t.sp == 0x01FC &&
          t.bus.map (fun a => (a.kind, a.addr, a.data)) ==
            [(.opcode, 0x58000, 0x22), (.operand, 0x58001, 0x00), (.operand, 0x58002, 0x90),
             (.write, 0x1FF, 0x05), (.operand, 0x58003, 0x12), (.write, 0x1FE, 0x80), (.write, 0x1FD, 0x03)]
      | _ => false) = true := by
  decide

/-- ST10: PHK pushes PBR. -/
theorem test_ST10_phk :
    (match step { (start 0 0 0 0x1FF 0 0 0 false [] [(0x58000, 0x4B)]) with pbr := 0x05 } with
      | .next t => t.sp == 0x01FE && t.mem.read 0x1FF == 0x05
      | _ => false) = true := by
  decide

/-- SY11: WAI waits. -/
theorem test_SY11_wai :
    (match step (start 0 0 0 0x1FF 0 0 0 false [0xCB, 0xEA] []) with
      | .next t => t.waiting && t.pc == 0x8001
      | _ => false) = true := by
  decide

/-- SY10: STP stops. -/
theorem test_SY10_stp :
    (match step (start 0 0 0 0x1FF 0 0 0 false [0xDB, 0xEA] []) with
      | .next t => t.stopped && t.pc == 0x8001
      | _ => false) = true := by
  decide

/-! ### The interface -/

/-- What the platform presents when nothing happens. -/
def quiet : Inputs :=
  { resLow := false, irqLow := false, rdyForcedHigh := false, nmiEdge := false, soEdge := false, abort := .none
    sets := [], answers := [], abortRanges := none }

/-- The next step runs the instruction of a table word: here LDA #80, then NOP. -/
theorem test_withFetchWord :
    (match step (State.reset.withFetchWord 16 0x80A9) with
      | .next t => t.c == 0xA580 && t.pc == 0x0002 && getFlag t.p .n
      | _ => false) = true ∧
    (match step (State.reset.withFetchWord 8 0x00EA) with
      | .next t => t.pc == 0x0001
      | _ => false) = true := by
  decide

theorem test_decodeTableWord :
    decodeTableWord 16 0x80A9 = some (.ldaImm (.byte 0x80)) ∧
    decodeTableWord 24 0x2000AD = some (.ldaAbs 0x2000) ∧
    decodeTableWord 32 0x123456AF = some (.ldaLong 0x123456) ∧
    decodeTableWord 8 0x00AF = some (.ldaLong 0) := by
  refine ⟨?_, ?_, ?_, ?_⟩ <;> rfl

/-- An assembler with both size settings at 8 bits. -/
def asm8 : AssemblerState := { labels := [], pc := 0x8000, narrowM := true, narrowX := true, fill := 0x00 }

/-- R105: "LDA $0203 and LDA !$010203 are completely equivalent" (AD 03 02). R104: immediate byte selection.
R106: the source bank is written first. -/
theorem test_assembler :
    assemble asm8 " LDA $0203" = some [0xAD, 0x03, 0x02] ∧
    assemble asm8 " LDA !$010203" = some [0xAD, 0x03, 0x02] ∧
    assemble asm8 " LDA #>$01020304" = some [0xA9, 0x03] ∧
    assemble asm8 " MVN $01,$02" = some [0x54, 0x02, 0x01] := by
  decide

/-- R360, R366: BRK and WDM are written alone (the examples 00 00 and 42 00); WDM has no operand syntax. R361:
COP needs its signature. -/
theorem test_assembler_written_alone :
    assemble asm8 " BRK" = some [0x00, 0x00] ∧ assemble asm8 " WDM" = some [0x42, 0x00] ∧
    assemble asm8 " BRK $12" = some [0x00, 0x12] ∧ assemble asm8 " WDM $12" = none ∧
    assemble asm8 " COP $01" = some [0x02, 0x01] ∧ assemble asm8 " COP" = none := by
  decide

/-- R101: DEA and INA (3A, 1A); an operand after them makes no instruction. -/
theorem test_assembler_DEA_INA :
    assemble asm8 " DEA" = some [0x3A] ∧ assemble asm8 " INA" = some [0x1A] ∧
    assemble asm8 " DEC A" = some [0x3A] ∧ assemble asm8 " DEA $10" = none ∧ assemble asm8 " INA A" = none := by
  decide

/-- R100: the case of a label does not matter. -/
theorem test_assembler_label_case :
    assemble { asm8 with labels := [("Loop".toList, 0x8000)] } " JMP LOOP" = some [0x4C, 0x00, 0x80] := by
  decide

/-- R102: an EXT label, one that is not located, is two bytes long unless a prefix or the mnemonic says otherwise
(AD, A5, AF, 22). -/
theorem test_assembler_ext :
    ((assemble asm8 " LDA FAR").map fun l => (l.head?, l.length)) = some (some 0xAD, 3) ∧
    ((assemble asm8 " LDA <FAR").map fun l => (l.head?, l.length)) = some (some 0xA5, 2) ∧
    ((assemble asm8 " LDA >FAR+1").map fun l => (l.head?, l.length)) = some (some 0xAF, 4) ∧
    ((assemble asm8 " JSL FAR").map fun l => (l.head?, l.length)) = some (some 0x22, 4) := by
  decide

/-- R103, R105: a long address is truncated where the instruction has no long form; a bank may have a prefix. -/
theorem test_assembler_truncates :
    assemble asm8 " LDX $012345" = some [0xAE, 0x45, 0x23] ∧
    assemble asm8 " LDA $012345" = some [0xAF, 0x45, 0x23, 0x01] ∧
    assemble asm8 " JMP ($012345)" = some [0x6C, 0x45, 0x23] ∧
    assemble asm8 " LDA $012345,y" = some [0xB9, 0x45, 0x23] ∧
    assemble asm8 " MVN <$01,|$02" = some [0x54, 0x02, 0x01] := by
  decide

/-- R105: a short address on an instruction without a short mode is padded with zeros ("LDA, which has no direct
page indexed by Y"). -/
theorem test_assembler_pads :
    assemble asm8 " LDA <$10,y" = some [0xB9, 0x10, 0x00] ∧ assemble asm8 " LDA $10,y" = some [0xB9, 0x10, 0x00] ∧
    assemble asm8 " JMP <$10" = some [0x4C, 0x10, 0x00] ∧ assemble asm8 " LDA <$0210" = some [0xA5, 0x10] := by
  decide

/-- R103, R104: the value of an immediate may have a size prefix; the size of the immediate is that of the register. -/
theorem test_assembler_immediate_prefix :
    assemble { asm8 with narrowM := false } " LDA #|$1234" = some [0xA9, 0x34, 0x12] ∧
    assemble asm8 " LDA #!$1234" = some [0xA9, 0x34] ∧ assemble asm8 " LDA #>|$1234" = some [0xA9, 0x12] ∧
    assemble { asm8 with narrowM := false } " LDA #>$01020304" = some [0xA9, 0x03, 0x02] := by
  decide

/-- The model's choices (notes/assumptions/36): the operand `A` is the accumulator, mode s takes a plain and a
parenthesised operand alike. -/
theorem test_assembler_choices :
    assemble { asm8 with labels := [("A".toList, 0x8000)] } " JMP A" = none ∧
    assemble asm8 " PEI ($10)" = some [0xD4, 0x10] ∧ assemble asm8 " PEI $10" = some [0xD4, 0x10] ∧
    assemble asm8 " BRK #$12" = none := by
  decide

/-- R472 (a), (b), (c), (e), (f) on INC a,x (7 or 9), LDA d, BNE and RTI. -/
theorem test_cycles :
    (start 0 0 0 0x1FF 0 0 0x30 false [] []).cycles (.incAbsX 0x2000) = 7 ∧
    (start 0 0 0 0x1FF 0 0 0x00 false [] []).cycles (.incAbsX 0x2000) = 9 ∧
    (start 0 0 0 0x1FF 1 0 0x00 false [] []).cycles (.ldaDir 0x10) = 5 ∧
    (start 0 0 0 0x1FF 0 0 0x30 true [] []).cycles (.bne 0x80) = 4 ∧
    (start 0 0 0 0x1FF 0 0 0x30 true [] []).cycles .rti = 6 := by
  decide

/-- R440: VDA and VPA of the five kinds of access of a step; ML- in a read-modify-write. -/
theorem test_pins :
    (match step (start 0 0 0 0x1FF 0 0 0x20 false [0xE6, 0x10] []) with
      | .next t => t.bus.map fun a => (a.rw, a.vda, a.vpa, a.ml)
      | _ => []) =
      [(true, true, true, true), (true, false, true, true), (true, true, false, false),
       (false, true, false, false)] := by
  decide

/-- R440: STP holds PHI1(OUT) low and PHI2(OUT) high, pins the W65C802 alone has. -/
theorem test_clock_pins :
    (match step (start 0 0 0 0x1FF 0 0 0 false [0xDB] []) with
      | .next t => t.phi1Out == .low && t.phi2Out == .high
      | _ => false) = true ∧
    (start 0 0 0 0x1FF 0 0 0 false [] []).phi1Out = .running ∧
    hasPin .w65c802 .pins40 .phi2Out = true ∧ hasPin .w65c816 .pins44 .phi2Out = false := by
  decide

/-! ### States that meet the hypotheses of the statements -/

/-- Emulation mode, as after reset, at 00:8000. -/
def em (code : List Byte) : State := start 0x1234 0x05 0x06 0x1FF 0 0 0x30 true code []

/-- Native mode with 16-bit registers. -/
def nat16 (code : List Byte) : State := start 0x1234 0x0105 0x0206 0x1FF 0 0x7E 0x00 false code []

/-- Native mode, decimal, with a valid BCD accumulator, 8 or 16 bits wide. -/
def bcd (p : Byte) : State := start 0x1299 0 0 0x1FF 0 0 p false [] [(0x10, 0x99), (0x11, 0x99)]

/-- The addresses from 2000 to 2FFF belong to the platform. -/
def withDevice (s : State) : State := { s with owned := [{ lo := 0x2000, hi := 0x2FFF }] }

/-- R62, D1: a store to an address the platform owns is on the bus and leaves the byte there; what a device
answers is the byte the platform has set last. -/
theorem test_platform_owned :
    (match step (withDevice (em [0x8D, 0x00, 0x20])) with
      | .next t => t.mem.read 0x2000 == 0x00 && t.bus.getLast? == some ⟨.write, 0x2000, 0x34, false⟩
      | _ => false) = true ∧
    (match step { withDevice (em [0xAD, 0x00, 0x20]) with inputs := [{ quiet with sets := [(0x2000, 0x5A)] }] } with
      | .next t => loByte t.c == 0x5A
      | _ => false) = true := by
  decide

/-- R62, D1: one read of the device for each access: the pointer of LDA (d) and its operand are the byte at 2010,
and the device answers the two reads differently. -/
theorem test_platform_answers_each_access :
    (match step { withDevice (start 0 0 0 0x1FF 0x2000 0 0x30 false [0xB2, 0x10] []) with
        inputs := [{ quiet with answers :=
          [⟨.pointer, 0x2010, 0x10⟩, ⟨.pointer, 0x2011, 0x20⟩, ⟨.read, 0x2010, 0x77⟩] }] } with
      | .next t => loByte t.c == 0x77 &&
          t.bus.drop 2 == [⟨.pointer, 0x2010, 0x10, false⟩, ⟨.pointer, 0x2011, 0x20, false⟩,
            ⟨.read, 0x2010, 0x77, false⟩]
      | _ => false) = true := by
  decide

theorem witness_DecodeEncode :
    (Instr.ldaImm (.byte 0x80)).wellFormed true false = true ∧
    (Instr.ldxImm (.word 0x1234)).wellFormed true false = true ∧ Instr.nop.wellFormed false false = true :=
  ⟨rfl, rfl, rfl⟩

theorem witness_EncodeDecode : decode false false [0xA9, 0x34, 0x12] = .ok (.ldaImm (.word 0x1234), []) := rfl

theorem witness_LengthByFlags :
    ((Instr.ldaImm (.byte 0x80)).wellFormed true true = true ∧ opcodeOf (.ldaImm (.byte 0x80)) = 0xA9) ∧
    ((Instr.ldxImm (.word 0x80)).wellFormed true false = true ∧ opcodeOf (.ldxImm (.word 0x80)) = 0xA2) ∧
    opcodeOf (.jslLong 0) = 0x22 ∧ opcodeOf (.jslLong 5) = opcodeOf (.jslLong 0) :=
  ⟨⟨rfl, rfl⟩, ⟨rfl, rfl⟩, rfl, rfl⟩

/-- NOP at the program counter; also with a wait that IRQ- has ended while P.I is 1. -/
theorem witness_StepRunsDecoded :
    ((em [0xEA]).present.Running ∧ (em [0xEA]).NoAbort ∧
      State.NoAbortPending { (em [0xEA]).present with waiting := false } ∧
      decode true true (State.codeBytes { (em [0xEA]).present with waiting := false }) =
        .ok (.nop, [0x00, 0x00, 0x00])) ∧
    State.Running { em [0xEA] with waiting := true, irqLow := true, p := 0x34 } := by
  refine ⟨⟨?_, ?_, ?_, rfl⟩, ?_⟩
  · exact ⟨rfl, rfl, rfl, nofun⟩
  · exact ⟨rfl, nofun, nofun⟩
  · exact nofun
  · exact ⟨rfl, rfl, rfl, fun _ => rfl⟩

theorem witness_StepKeepsInv : State.reset.Inv ∧ ∃ t, step State.reset = .next t :=
  ⟨⟨fun _ => by decide, fun _ => by decide, fun _ => by decide, by decide, by decide⟩, _, rfl⟩

/-- A step with accesses on each of the two parts. -/
theorem witness_AccessesValid :
    (∃ t, step (em [0xEA]) = .next t ∧ t.cfg.variant = .w65c816 ∧ t.bus ≠ []) ∧
    (∃ t, step { em [0xEA] with cfg := { Config.default with variant := .w65c802 } } = .next t ∧
      t.cfg.variant = .w65c802 ∧ t.bus ≠ []) := by
  refine ⟨⟨_, rfl, rfl, ?_⟩, _, rfl, rfl, ?_⟩ <;> decide

/-- The wrapping clause at offset FF with index 1, and the other clause. -/
theorem witness_DirectAddresses :
    ((em []).e = true ∧ (em []).d.toNat % 256 = 0) ∧ ¬ ((nat16 []).e = true ∧ (nat16 []).d.toNat % 256 = 0) ∧
    ((MemMode.dirX 0xFF = .dir 0xFF ∧ (em []).x = 0) ∨ (MemMode.dirX 0xFF = .dirX 0xFF ∧ (em []).x = (em []).x)) :=
  ⟨⟨rfl, rfl⟩, (by decide), .inr ⟨rfl, rfl⟩⟩

theorem witness_reads :
    readForm (.ldaDirIndY 0xFF) = some (.lda, .mem (.dirIndY 0xFF)) ∧
    readForm (.ldaImm (.word 0xFFFF)) = some (.lda, .imm (.word 0xFFFF)) ∧
    readForm (.ldxDirY 0xFF) = some (.ldx, .mem (.dirY 0xFF)) ∧
    readForm (.ldyAbsX 0xFFFF) = some (.ldy, .mem (.absX 0xFFFF)) ∧
    readForm (.andLong 0xFFFFFF) = some (.and, .mem (.long 0xFFFFFF)) ∧
    readForm (.eorStk 0xFF) = some (.eor, .mem (.stk 0xFF)) ∧
    readForm (.oraStkIndY 0x00) = some (.ora, .mem (.stkIndY 0x00)) ∧
    readForm (.cmpDir 0x10) = some (.cmp, .mem (.dir 0x10)) ∧
    readForm (.cpxImm (.byte 0x80)) = some (.cpx, .imm (.byte 0x80)) ∧
    readForm (.cpyAbs 0x0000) = some (.cpy, .mem (.abs 0x0000)) ∧
    readForm (.bitDirX 0x10) = some (.bit, .mem (.dirX 0x10)) ∧
    readForm (.bitImm (.byte 0x80)) = some (.bit, .imm (.byte 0x80)) :=
  ⟨rfl, rfl, rfl, rfl, rfl, rfl, rfl, rfl, rfl, rfl, rfl, rfl⟩

theorem witness_stores_and_modifies :
    storeForm (.staAbsY 0xFFFF) = some (.sta, .absY 0xFFFF) ∧ storeForm (.stxDirY 0xFF) = some (.stx, .dirY 0xFF) ∧
    storeForm (.styDirX 0xFF) = some (.sty, .dirX 0xFF) ∧ storeForm (.stzAbsX 0x0000) = some (.stz, .absX 0x0000) ∧
    modifyForm (.incDir 0xFF) = some (.inc, .dir 0xFF) ∧ modifyForm (.decAbsX 0xFFFF) = some (.dec, .absX 0xFFFF) ∧
    modifyForm (.aslAbs 0xFFFF) = some (.asl, .abs 0xFFFF) ∧ modifyForm (.lsrDirX 0) = some (.lsr, .dirX 0) ∧
    modifyForm (.rolDir 0) = some (.rol, .dir 0) ∧ modifyForm (.rorAbs 0) = some (.ror, .abs 0) ∧
    modifyForm (.tsbDir 0xFF) = some (.tsb, .dir 0xFF) ∧ modifyForm (.trbAbs 0xFFFF) = some (.trb, .abs 0xFFFF) ∧
    accForm .incAcc = some .inc ∧ accForm .decAcc = some .dec ∧ accForm .aslAcc = some .asl ∧
    accForm .lsrAcc = some .lsr ∧ accForm .rolAcc = some .rol ∧ accForm .rorAcc = some .ror :=
  ⟨rfl, rfl, rfl, rfl, rfl, rfl, rfl, rfl, rfl, rfl, rfl, rfl, rfl, rfl, rfl, rfl, rfl, rfl⟩

theorem witness_AddBinary_SubtractBinary :
    readForm (.adcDir 0xFF) = some (.adc, .mem (.dir 0xFF)) ∧
    readForm (.sbcImm (.byte 0xFF)) = some (.sbc, .imm (.byte 0xFF)) ∧ getFlag (em []).p .d = false := by
  refine ⟨rfl, rfl, ?_⟩; decide

/-- 99 + 99 at 8 bits and 1299 + 9999 at 16 bits. -/
theorem witness_AddDecimal_SubtractDecimal :
    (readForm (.adcDir 0x10) = some (.adc, .mem (.dir 0x10)) ∧
      readForm (.sbcDir 0x10) = some (.sbc, .mem (.dir 0x10))) ∧
    (getFlag (bcd 0x28).p .d = true ∧ validBcd (widthDigits (bcd 0x28).mw) (bcd 0x28).acc.toNat = true ∧
      validBcd (widthDigits (bcd 0x28).mw)
        ((bcd 0x28).operandValue (bcd 0x28).mw (.mem (.dir 0x10))).toNat = true) ∧
    (getFlag (bcd 0x08).p .d = true ∧ validBcd (widthDigits (bcd 0x08).mw) (bcd 0x08).acc.toNat = true ∧
      validBcd (widthDigits (bcd 0x08).mw)
        ((bcd 0x08).operandValue (bcd 0x08).mw (.mem (.dir 0x10))).toNat = true) := by
  refine ⟨⟨rfl, rfl⟩, ?_, ?_⟩ <;> decide

/-- A store to a byte of RAM, and one to a byte the platform owns. -/
theorem witness_Stores :
    (em []).IsRam ((em []).operandAddr (.abs 0x2000) 0) ∧
    ¬ (withDevice (em [])).IsRam ((withDevice (em [])).operandAddr (.abs 0x2000) 0) ∧
    (withDevice (em [])).IsRam ((withDevice (em [])).operandAddr (.abs 0x3000) 0) := by
  simp only [State.IsRam]; decide

theorem witness_ModifyBusOrder : ∃ t, exec (.incAbs 0x2000) (em []) = .next t := ⟨_, rfl⟩

/-- A push of JSL that falls on its own last byte, which is RAM and holds the operand's bank; one that does not;
and one that falls on a byte the platform owns. -/
theorem witness_Calls :
    (let s : State := { nat16 [0x22, 0x00, 0x90, 0x12] with sp := 0x8003 }
     s.peek .operand (s.codeAddr 3) = 0x12 ∧
      phys s.cfg.variant (stackAddr s.sp) = phys s.cfg.variant (s.codeAddr 3) ∧ s.StackRam s.sp) ∧
    (let s : State := { nat16 [0x22, 0x00, 0x90, 0x12] with sp := 0x8003, owned := [{ lo := 0x8000, hi := 0x8003 }] }
     ¬ s.StackRam s.sp) ∧
    (let s := nat16 [0x22, 0x00, 0x90, 0x12]
     phys s.cfg.variant (stackAddr s.sp) ≠ phys s.cfg.variant (s.codeAddr 3)) ∧
    (let s := nat16 [0xFC, 0x00, 0x90]
     s.peek .operand (s.codeAddr 2) = 0x90 ∧ phys s.cfg.variant (stackAddr s.sp) ≠ phys s.cfg.variant (s.codeAddr 2) ∧
      phys s.cfg.variant (stackAddr (s.sp - 1)) ≠ phys s.cfg.variant (s.codeAddr 2)) := by
  simp only [State.StackRam, State.IsRam]; decide

theorem witness_CallThenReturn :
    (nat16 []).e = false ∧ (∀ k, k < 3 → (nat16 []).StackRam ((nat16 []).sp - BitVec.ofNat 16 k)) ∧
    (∃ u t, exec (.jsrAbs 0x9000) (nat16 []) = .next u ∧ exec .rts u = .next t) ∧
    ∃ u t, exec (.jslLong 0x129000) (nat16 []) = .next u ∧ exec .rtl u = .next t :=
  ⟨rfl, fun _ _ => rfl, ⟨_, _, rfl, rfl⟩, _, _, rfl, rfl⟩

theorem witness_RegisterWriters :
    (∃ t, exec .nop (em []) = .next t) ∧ (em []).e = true ∧ Instr.nop ≠ .xce ∧ Instr.nop ≠ .plb ∧
    (∀ g, Instr.nop ≠ .brk g) ∧ ∀ g, Instr.nop ≠ .cop g :=
  ⟨⟨_, rfl⟩, rfl, nofun, nofun, nofun, nofun⟩

/-- Both values of C that a step of a block move tells apart, and both values it may leave. -/
theorem witness_BlockMoveStep :
    (nat16 []).c ≠ 0 ∧ ({ nat16 [] with c := 0 } : State).c = 0 ∧ (nat16 []).cfg.blockMoveFinalC = .ffff ∧
    (nat16 []).IsRam (phys (nat16 []).cfg.variant (mkAddr 0x02 (nat16 []).y)) ∧
    ¬ (withDevice (nat16 [])).IsRam (phys (nat16 []).cfg.variant (mkAddr 0x00 0x2FFF)) := by
  simp only [State.IsRam]; decide

/-- MVN of two bytes to an overlapping place below, MVP to one above, and MVN of 256 bytes with 8-bit index
registers: no step reads a byte that an earlier one wrote. -/
theorem witness_BlockMoveWhole :
    (let s : State := { nat16 [] with c := 1, x := 0x0001, y := 0x0000 }
     s.xw = .w16 ∧ ∀ j, j < 2 → ∀ k, k < j → s.x + 1 * BitVec.ofNat 16 j ≠ s.y + 1 * BitVec.ofNat 16 k) ∧
    (let s : State := { nat16 [] with c := 1, x := 0x0000, y := 0x0001 }
     s.xw = .w16 ∧ ∀ j, j < 2 → ∀ k, k < j → s.x + -1 * BitVec.ofNat 16 j ≠ s.y + -1 * BitVec.ofNat 16 k) ∧
    (let s : State := { em [] with c := 0x00FF }
     s.indexInv ∧ s.xw = .w8 ∧ s.c.toNat + 1 ≤ 256 ∧
      ∀ a b : Word, phys s.cfg.variant (mkAddr 0x01 a) ≠ phys s.cfg.variant (mkAddr 0x02 b)) ∧
    (nat16 []).indexInv ∧ ∀ a, (nat16 []).IsRam a := by
  refine ⟨by decide, by decide, ⟨fun _ => by decide, rfl, by decide, ?_⟩, nofun, fun _ => rfl⟩
  intro a b h
  have h : mkAddr 0x01 a = mkAddr 0x02 b := BitVec.eq_of_toNat_eq h
  have := congrArg bankOf h
  rw [bankOf_mkAddr, bankOf_mkAddr] at this
  cases this

theorem witness_InterruptThenReturn :
    ((em []).flagsInv ∧ (em []).stackInv ∧ (em []).indexInv) ∧
    (∀ k, k < ((em []).frameBytes .irq 0x8000).length → (em []).StackRam ((em []).sDown k)) ∧
    ∃ t, exec .rti ((em []).interrupt .irq 0x8000) = .next t :=
  ⟨⟨fun _ => by decide, fun _ => by decide, fun _ => by decide⟩, fun _ _ => rfl, _, rfl⟩

/-- NMI- pending with IRQ- low too; IRQ- low alone with P.I = 0; the same out of a wait. -/
theorem witness_HardwareInterrupts :
    (let s : State := { em [0xEA] with nmiPending := true, irqLow := true }
     s.present.Running ∧ s.NoAbort ∧ s.present.NoAbortPending ∧ s.present.nmiPending = true) ∧
    (let s : State := { em [0xEA] with irqLow := true, waiting := true }
     s.present.Running ∧ s.NoAbort ∧ s.present.NoAbortPending ∧ s.present.nmiPending = false ∧
      s.present.irqLow = true ∧ getFlag s.present.p .i = false) := by
  refine ⟨⟨?_, ?_, ?_, ?_⟩, ⟨?_, ?_, ?_, rfl, rfl, ?_⟩⟩
  · exact ⟨rfl, rfl, rfl, nofun⟩
  · exact ⟨rfl, nofun, nofun⟩
  · exact nofun
  · rfl
  · exact ⟨rfl, rfl, rfl, fun _ => rfl⟩
  · exact ⟨rfl, nofun, nofun⟩
  · exact nofun
  · decide

theorem witness_AbortTaken :
    let s : State := { em [0xEA] with abortPending := true, waiting := true, nmiPending := true }
    s.present.Running ∧ s.NoAbort ∧ s.present.abortPending = true ∧ s.present.cfg.variant = .w65c816 :=
  ⟨⟨rfl, rfl, rfl, fun _ => rfl⟩, ⟨rfl, nofun, nofun⟩, rfl, rfl⟩

/-- External hardware that rejects the accesses to one address. -/
def rejecting (s : State) (a : Nat) (onRead onWrite : Bool) : State :=
  { s with abortRanges := [{ lo := a, hi := a, kinds := (if onRead then [.opcode, .operand, .read, .pointer, .vector] else [])
      ++ (if onWrite then [.write, .modify] else []), blocks := true }] }

/-- R420, D5: external hardware ends and begins to answer an access with ABORT- at a boundary; a rejected write that
it does not block is made. -/
theorem test_abort_ranges_change :
    (match step { rejecting (em [0xAD, 0x00, 0x20]) 0x2000 true true with
        inputs := [{ quiet with abortRanges := some [] }] } with
      | .next t => t.pc == 0x8003 && !t.abortPending
      | _ => false) = true ∧
    (match step { em [0x8D, 0x00, 0x20] with inputs := [{ quiet with
        abortRanges := some [{ lo := 0x2000, hi := 0x2000, kinds := [.write], blocks := false }] }] } with
      | .next t => t.pc == 0x8000 && t.abortPending && t.mem.read 0x2000 == 0x34
      | _ => false) = true := by
  decide

/-- The state in which a step's instruction runs, its fetches noted. -/
def fetched (s : State) (i : Instr) : State := State.noteFetch { s.present with waiting := false } i

/-- In time: a pulse during NOP; STA $2000 rejected; INC $2000 rejected on its read; RTI on its opcode. -/
theorem witness_AbortRestores_inTime :
    (let s : State := { em [0xEA] with inputs := [{ quiet with abort := .early }] }
     s.present.Running ∧ decode true true (State.codeBytes { s.present with waiting := false }) =
       .ok (.nop, [0x00, 0x00, 0x00]) ∧ ∃ r, exec .nop (fetched s .nop) = .next r ∧ s.AbortsInTime r .plain) ∧
    (let s := rejecting (em [0x8D, 0x00, 0x20]) 0x2000 false true
     ∃ r, exec (.staAbs 0x2000) (fetched s (.staAbs 0x2000)) = .next r ∧ s.AbortsInTime r .plain) ∧
    (let s := rejecting (em [0xEE, 0x00, 0x20]) 0x2000 true true
     ∃ r, exec (.incAbs 0x2000) (fetched s (.incAbs 0x2000)) = .next r ∧ s.AbortsInTime r .modify) ∧
    (let s := rejecting (em [0x40]) 0x8000 true false
     ∃ r, exec .rti (fetched s .rti) = .next r ∧ s.AbortsInTime r .rti) :=
  ⟨⟨⟨rfl, rfl, rfl, nofun⟩, rfl, _, rfl, .inl rfl⟩,
    ⟨_, rfl, .inr ⟨⟨.write, 0x2000, 0x34, false⟩, by decide, rfl⟩⟩,
    ⟨_, rfl, .inr ⟨⟨.read, 0x2000, 0x00, true⟩, by decide, rfl⟩⟩,
    ⟨_, rfl, .inr ⟨⟨.opcode, 0x8000, 0x40, false⟩, by decide, rfl⟩⟩⟩

/-- Late: a pulse at the end of NOP; the write-back of INC $2000 in Native mode; a pull of RTI; a push of BRK. -/
theorem witness_AbortRestores_late :
    (let s : State := { em [0xEA] with inputs := [{ quiet with abort := .late }] }
     ∃ r, exec .nop (fetched s .nop) = .next r ∧ s.AbortsLate r .plain) ∧
    (let s := rejecting (nat16 [0xEE, 0x00, 0x20]) 0x7E2000 false true
     ∃ r, exec (.incAbs 0x2000) (fetched s (.incAbs 0x2000)) = .next r ∧ s.AbortsLate r .modify) ∧
    (let s := rejecting (nat16 [0x40]) 0x0200 true false
     ∃ r, exec .rti (fetched s .rti) = .next r ∧ s.AbortsLate r .rti) ∧
    (let s := rejecting (nat16 [0x00, 0x00]) 0x01FF false true
     ∃ r, exec (.brk 0x00) (fetched s (.brk 0x00)) = .next r ∧ s.AbortsLate r .sequence) := by
  refine ⟨⟨_, rfl, ?_, .inl rfl⟩, ⟨_, rfl, .of_access ⟨.write, 0x7E2000, 0x01, true⟩ ?_ rfl nofun⟩,
    ⟨_, rfl, .of_access ⟨.read, 0x0200, 0x00, false⟩ ?_ rfl nofun⟩,
    ⟨_, rfl, .of_access ⟨.write, 0x01FF, 0x00, false⟩ ?_ rfl nofun⟩⟩
  · rintro (h | ⟨a, h, _⟩)
    · cases h
    · rw [show List.find? _ _ = none by decide] at h; cases h
  all_goals decide

/-- A WAI that waits; and the three hardware sequences, one of them after a wait, aborted on a push or by a pulse. -/
theorem witness_AbortRestores_others :
    (let s : State := { em [0xCB] with inputs := [{ quiet with abort := .early }] }
     ∃ r, exec .wai (fetched s .wai) = .next r ∧ r.waiting = true ∧ s.AbortsInTime r .plain) ∧
    (let s : State := { rejecting (em [0xEA]) 0x01FF false true with
       abortPending := true, waiting := true, irqLow := true }
     ∃ v, s.present.Running ∧ s.present.Starts .abort v ∧ s.AbortsLate (v.interrupt .abort v.pc) .sequence) ∧
    (let s : State := { em [0xEA] with nmiPending := true, inputs := [{ quiet with abort := .early }] }
     ∃ v, s.present.Running ∧ s.present.Starts .nmi v ∧ s.AbortsInTime (v.interrupt .nmi v.pc) .sequence) ∧
    (let s : State := { rejecting (em [0xEA]) 0xFFFE true false with irqLow := true }
     ∃ v, s.present.Running ∧ s.present.Starts .irq v ∧ s.AbortsLate (v.interrupt .irq v.pc) .sequence) := by
  refine ⟨⟨_, rfl, rfl, .inl rfl⟩,
    ⟨_, ⟨rfl, rfl, rfl, fun _ => rfl⟩, .inl ⟨rfl, rfl, rfl, rfl⟩,
      .of_access ⟨.write, 0x01FF, 0x7F, false⟩ ?_ rfl nofun⟩,
    ⟨_, ⟨rfl, rfl, rfl, nofun⟩, .inr (.inl ⟨rfl, nofun, rfl, rfl⟩), .inl rfl⟩,
    ⟨_, ⟨rfl, rfl, rfl, nofun⟩, .inr (.inr ⟨rfl, nofun, rfl, rfl, by decide, rfl⟩),
      .of_access ⟨.vector, 0xFFFE, 0x00, false⟩ ?_ rfl nofun⟩⟩ <;> decide

/-- A byte guarded against writes, at both ends of the range; a byte the platform owns; a step that stores there. -/
theorem witness_GuardedBytesKept :
    (let r : AbortRange := { lo := 0x2000, hi := 0x2FFF, kinds := [.write, .modify], blocks := true }
     let s : State := { em [0x8D, 0x00, 0x20] with abortRanges := [r] }
     s.cfg.variant = .w65c816 ∧ r ∈ s.present.abortRanges ∧ .write ∈ r.kinds ∧ .modify ∈ r.kinds ∧ r.blocks = true ∧ r.lo ≤ 0x2000 ∧ 0x2000 ≤ r.hi ∧
      0x2FFF ≤ r.hi ∧ ∃ t, step s = .next t) ∧
    ¬ (withDevice (em [0x8D, 0x00, 0x20])).IsRam 0x2000 ∧ ¬ (withDevice (em [0x8D, 0x00, 0x20])).IsRam 0x2FFF ∧
    ∃ t, step (withDevice (em [0x8D, 0x00, 0x20])) = .next t :=
  ⟨⟨rfl, List.mem_singleton.mpr rfl, by decide, by decide, rfl, by decide, by decide, by decide, _, rfl⟩, nofun, nofun, _, rfl⟩

theorem witness_WaitingAndStopped :
    (let s : State := { em [] with stopped := true }
     s.present.resLow = false ∧ s.present.inReset = false ∧ s.present.stopped = true) ∧
    (let s : State := { em [] with waiting := true }
     s.present.resLow = false ∧ s.present.inReset = false ∧ s.present.stopped = false ∧
      s.present.waiting = true ∧ s.present.nmiPending = false ∧ s.present.irqLow = false) := by
  decide

theorem witness_ResetInput :
    (State.present { em [] with resLow := true }).resLow = true := rfl

theorem witness_ResetInput_released :
    (State.present { em [] with inReset := true }).resLow = false ∧
    (State.present { em [] with inReset := true }).inReset = true := ⟨rfl, rfl⟩

/-- A byte that the platform owns with an answer for the access, and one without; a byte of RAM. -/
theorem witness_OperandBytes :
    (let s : State := { withDevice (em []) with answers := [⟨.read, 0x2010, 0x77⟩] }
     ¬ s.IsRam 0x2010 ∧ s.answers.find? (fun r => r.kind == .read && r.addr == 0x2010) = some ⟨.read, 0x2010, 0x77⟩ ∧
      ¬ s.IsRam 0x2000 ∧ s.answers.find? (fun r => r.kind == .read && r.addr == 0x2000) = none ∧ s.IsRam 0x1FFF) := by
  refine ⟨?_, ?_, ?_, ?_, ?_⟩ <;> simp [State.IsRam] <;> decide

/-- On the W65C802 an edge of SO- and a pulse of ABORT-; on the W65C816 the pulse, a byte set twice and one past
the end of the address space; and nothing presented. -/
theorem witness_InputsPresented :
    (let i : Inputs := { quiet with soEdge := true, abort := .boundary }
     let s : State := { em [] with cfg := { Config.default with variant := .w65c802 }, inputs := [i] }
     s.inputs = i :: [] ∧ s.cfg.variant = .w65c802 ∧ i.soEdge = true ∧ s.present.abortPending = false) ∧
    (let i : Inputs :=
       { quiet with abort := .boundary, sets := [(0xFFFFFF, 0x11), (0xFFFFFF, 0x22), (0x1000000, 0x33)] }
     let s : State := { em [] with inputs := [i] }
     s.inputs = i :: [] ∧ s.cfg.variant = .w65c816 ∧ i.abort = .boundary ∧ 0xFFFFFF < physSize s.cfg.variant ∧
      s.present.mem.read 0xFFFFFF = 0x22 ∧ s.present.mem.read 0x1000000 = 0x00) ∧
    (em []).inputs = [] := by
  refine ⟨⟨rfl, rfl, rfl, ?_⟩, ⟨rfl, rfl, rfl, ?_, ?_, ?_⟩, rfl⟩ <;> decide

end Sys2Proof.Tests
end

/-!
PROOFS of the scope statements (00_scope.md): every state has a next one (O7), and what the inputs of a boundary
change (O59).
-/

/-! ### Four bytes always decode (R90, R97) -/

namespace Sys2Proof

/-- The opcode matrix has a cell for every opcode: sixteen rows of sixteen cells (R90, R94). -/
theorem exists_cellOf (op : Byte) : ∃ cell, cellOf op = some cell := by
  have hrows : opcodeMatrix.length = 16 := rfl
  have hcols : ∀ row ∈ opcodeMatrix, row.length = 16 := by decide
  have hrow : op.toNat / 16 < opcodeMatrix.length := by omega
  have hcol : op.toNat % 16 < opcodeMatrix[op.toNat / 16].length := by
    rw [hcols _ (List.getElem_mem hrow)]
    exact Nat.mod_lt _ (by decide)
  refine ⟨opcodeMatrix[op.toNat / 16][op.toNat % 16], ?_⟩
  simp only [cellOf, List.getElem?_eq_getElem hrow, List.getElem?_eq_getElem hcol]

/-- Two bytes are enough for an immediate of either length (R93). -/
theorem exists_readImm (narrow : Bool) (b0 b1 : Byte) (rest : List Byte) :
    ∃ r, readImm narrow (b0 :: b1 :: rest) = some r := by
  cases narrow <;> exact ⟨_, rfl⟩

/-- Three bytes are enough for the operand of every format (R91, R93). -/
theorem exists_readOperand (m x : Bool) (shape : Shape) (b0 b1 b2 : Byte) :
    ∃ r, readOperand m x shape [b0, b1, b2] = some r := by
  cases shape with
  | imp i => exact ⟨_, rfl⟩
  | b8 f => exact ⟨_, rfl⟩
  | b16 f => exact ⟨_, rfl⟩
  | b24 f => exact ⟨_, rfl⟩
  | blk f => exact ⟨_, rfl⟩
  | immM f =>
    obtain ⟨r, hr⟩ := exists_readImm m b0 b1 [b2]
    exact ⟨(f r.1, r.2), by simp only [readOperand, hr, Option.map_some]⟩
  | immX f =>
    obtain ⟨r, hr⟩ := exists_readImm x b0 b1 [b2]
    exact ⟨(f r.1, r.2), by simp only [readOperand, hr, Option.map_some]⟩

/-- No byte sequence is illegal: the longest instruction has four bytes, and four always make one (R90, R97). -/
theorem exists_decode_four (m x : Bool) (b0 b1 b2 b3 : Byte) :
    ∃ r, decode m x [b0, b1, b2, b3] = .ok r := by
  obtain ⟨cell, hcell⟩ := exists_cellOf b0
  obtain ⟨r, hr⟩ := exists_readOperand m x cell.shape b1 b2 b3
  exact ⟨r, by simp only [decode, hcell, hr]⟩

end Sys2Proof

namespace Sys2Proof.Machine

/-! ### Every state has a next one (R12, R400) -/

/-- The bytes at PBR:PC always spell an instruction (R90). -/
theorem State.exists_decoded (s : State) : ∃ r, s.decoded = .ok r :=
  exists_decode_four _ _ _ _ _ _

/-- Running an instruction answers a next state: the bytes decode and every instruction completes. -/
theorem State.runInstr_next (s : State) (pin : AbortInput) : ∃ t, s.runInstr pin = .next t := by
  obtain ⟨r, hr⟩ := s.exists_decoded
  obtain ⟨t, ht⟩ := exec_completes r.1 (s.noteFetch r.1)
  exact ⟨s.settle (abortClass r.1) pin t, by simp only [State.runInstr, hr, ht]⟩

/-- Whichever way the interrupt test of R403 goes, a next state is answered. -/
theorem State.boundary_next (s : State) (waited : Bool) (pin : AbortInput) :
    ∃ t, s.boundary waited pin = .next t := by
  unfold State.boundary
  split
  · exact ⟨_, rfl⟩
  split
  · exact ⟨_, rfl⟩
  split
  · exact ⟨_, rfl⟩
  · exact s.runInstr_next pin

/-- Whatever R403 decides at a boundary, a next state is answered. -/
theorem State.proceed_next (s : State) (pin : AbortInput) : ∃ t, s.proceed pin = .next t := by
  unfold State.proceed
  split
  · exact ⟨_, rfl⟩
  split
  · exact ⟨_, rfl⟩
  split
  · exact ⟨_, rfl⟩
  split
  · exact ⟨_, rfl⟩
  · exact State.boundary_next _ _ _

/-- Settles O7: each way through R403 ends in a next state; the one that could fault runs an instruction, and
four bytes always decode to one that completes. -/
theorem stepAlwaysNext : Obligations.StepAlwaysNext :=
  fun s => s.present.proceed_next s.abortPin

/-! ### What the inputs of a boundary change (R35, R38, R441, R62) -/

/-- Only the named flag can change when one is written. -/
theorem keepsFlags_putFlag (p : Byte) (f : Flag) (b : Bool) : KeepsFlags p (putFlag p f b) [f] := by
  intro g hg
  rw [getFlag_putFlag, if_neg (List.ne_of_not_mem_cons hg)]

/-- With nothing presented only the records of the step before are cleared. -/
theorem State.present_of_nil {s : State} (h : s.inputs = []) : s.present = { s with bus := [], answers := [] } := by
  simp only [State.present, h]

section Cons

variable {s : State} {i : Inputs} {l : List Inputs}

/-- The levels are those presented, and the record is consumed. -/
theorem State.present_levels (h : s.inputs = i :: l) :
    s.present.resLow = i.resLow ∧ s.present.irqLow = i.irqLow ∧ s.present.rdyForcedHigh = i.rdyForcedHigh ∧
      s.present.inputs = l := by
  simp only [State.present, h, and_self]

/-- The platform's answers and abort ranges are those presented (R62, D5). -/
theorem State.present_platform (h : s.inputs = i :: l) :
    s.present.answers = i.answers ∧ s.present.abortRanges = i.abortRanges.getD s.abortRanges := by
  simp only [State.present, h, and_self]

theorem State.present_nmiPending (h : s.inputs = i :: l) :
    s.present.nmiPending = (s.nmiPending || i.nmiEdge) := by
  simp only [State.present, h]

theorem State.present_abortPending (h : s.inputs = i :: l) :
    s.present.abortPending = (s.abortPending || (s.cfg.variant == .w65c816 && i.abort == .boundary)) := by
  simp only [State.present, h]

theorem State.present_p (h : s.inputs = i :: l) :
    s.present.p = if s.cfg.variant = .w65c802 ∧ i.soEdge = true then putFlag s.p .v true else s.p := by
  simp only [State.present, h]

theorem State.present_mem (h : s.inputs = i :: l) :
    s.present.mem = s.mem.setAll (physSize s.cfg.variant) i.sets := by
  simp only [State.present, h]

/-- On the W65C802 an edge of SO- sets V and keeps the other flags (R441, D8). -/
theorem State.present_p_of_soEdge (h : s.inputs = i :: l) (hv : s.cfg.variant = .w65c802) (he : i.soEdge = true) :
    getFlag s.present.p .v = true ∧ KeepsFlags s.p s.present.p [.v] := by
  rw [State.present_p h, if_pos ⟨hv, he⟩]
  exact ⟨by rw [getFlag_putFlag, if_pos rfl], keepsFlags_putFlag _ _ _⟩

/-- On the W65C816, and without an edge of SO-, P stays. -/
theorem State.present_p_of_no_so (h : s.inputs = i :: l) (hn : s.cfg.variant = .w65c816 ∨ i.soEdge = false) :
    s.present.p = s.p := by
  rw [State.present_p h, if_neg]
  rintro ⟨hv, he⟩
  rcases hn with hn | hn
  · rw [hn] at hv; cases hv
  · rw [hn] at he; cases he

/-- A pulse of ABORT- at the boundary of the W65C816 stays latched (R38). -/
theorem State.present_abortPending_of_pulse (h : s.inputs = i :: l) (hv : s.cfg.variant = .w65c816)
    (ha : i.abort = .boundary) : s.present.abortPending = true := by
  simp [State.present_abortPending h, hv, ha]

/-- On the W65C802, which has no ABORT-, and without a pulse the latch stays (R6). -/
theorem State.present_abortPending_of_no_pulse (h : s.inputs = i :: l)
    (hn : s.cfg.variant = .w65c802 ∨ i.abort ≠ .boundary) : s.present.abortPending = s.abortPending := by
  rw [State.present_abortPending h]
  rcases hn with hn | hn <;> simp [hn]

/-- A byte the platform sets reads as it was last set, every other as before (R62). -/
theorem State.present_mem_read (h : s.inputs = i :: l) (a : Nat) :
    s.present.mem.read a =
      if a < physSize s.cfg.variant then (i.sets.reverse.lookup a).getD (s.mem.read a) else s.mem.read a := by
  rw [State.present_mem h, Memory.read_setAll]

end Cons

/-- Settles O59: each field the inputs can change by its own lemma, every other by `State.present_eq`. -/
theorem inputsPresented : Obligations.InputsPresented := by
  refine ⟨fun s h => State.present_of_nil h, fun s i l h => ?_⟩
  obtain ⟨hres, hirq, hrdy, hinputs⟩ := State.present_levels h
  obtain ⟨hanswers, hranges⟩ := State.present_platform h
  exact ⟨hres, hirq, hrdy, State.present_nmiPending h, hinputs, hanswers, hranges,
    State.present_p_of_soEdge h, State.present_p_of_no_so h,
    State.present_abortPending_of_pulse h, State.present_abortPending_of_no_pulse h,
    State.present_mem_read h, s.present_eq⟩

end Sys2Proof.Machine

/-!
PROOFS of the state statements (10_state.md): what reset leaves (O8, O9), what every step keeps (O10), where the
bus accesses of a step lie (O11), and which instructions write E, D, PBR and DBR (O45).
-/

namespace Sys2Proof.Machine

/-! ### After reset (R34, R40) -/

/-- The flags of P as reset leaves them (R34): M, X and I set, D clear, the others free. -/
theorem getFlag_resetP (n v z c : Bool) (f : Flag) :
    getFlag (BitVec.ofBool n ++ BitVec.ofBool v ++ 0b1101#4 ++ BitVec.ofBool z ++ BitVec.ofBool c) f =
      match f with
      | .n => n
      | .v => v
      | .m | .x | .i => true
      | .d => false
      | .z => z
      | .c => c := by
  cases f <;> (revert n v z c; decide)

/-- Settles O8: the index registers and S by their bytes, P by its flags, every other register as it is written. -/
theorem resetValues : Obligations.ResetValues := by
  intro cfg mem u s
  have hp (f : Flag) := getFlag_resetP u.n u.v u.z u.carry f
  exact ⟨rfl, hiByte_mkWord _ _, loByte_mkWord _ _, hiByte_mkWord _ _, loByte_mkWord _ _,
    hiByte_mkWord _ _, loByte_mkWord _ _, rfl, rfl, rfl, rfl,
    hp .n, hp .v, hp .m, hp .x, hp .d, hp .i, hp .z, hp .c, rfl, rfl, rfl⟩

/-! ### The invariant of the registers -/

/-- The part of the invariant that speaks of registers (R21, R22, R31). -/
structure State.ModeInv (s : State) : Prop where
  flags : s.flagsInv
  stack : s.stackInv
  index : s.indexInv

theorem State.inv_iff (s : State) : s.Inv ↔ s.ModeInv ∧ s.memInv :=
  ⟨fun ⟨flags, stack, index, memory⟩ => ⟨⟨flags, stack, index⟩, memory⟩,
    fun ⟨⟨flags, stack, index⟩, memory⟩ => ⟨flags, stack, index, memory⟩⟩

/-- Whatever reset does not initialise, the registers meet the invariant. -/
theorem State.resetWith_modeInv (cfg : Config) (mem : Memory) (u : ResetUnspecified) :
    (State.resetWith cfg mem u).ModeInv where
  flags _ := ⟨getFlag_resetP u.n u.v u.z u.carry .m, getFlag_resetP u.n u.v u.z u.carry .x⟩
  stack _ := hiByte_mkWord 0x01 u.sl
  index _ := ⟨hiByte_mkWord 0x00 u.xl, hiByte_mkWord 0x00 u.yl⟩

/-- Settles O9: the registers as after every reset, and memory lists nothing. -/
theorem resetInv : Obligations.ResetInv :=
  (State.inv_iff _).mpr ⟨State.resetWith_modeInv _ _ _, Memory.reset_wf _⟩

/-- A write of the whole of P is normalised, so it makes the flags and the index registers meet the invariant
whatever they were before (R31, R339, R340). -/
theorem State.loadP_modeInv {s : State} (h : s.stackInv) (v : Byte) : (s.loadP v).ModeInv where
  flags he := by
    have he : s.e = true := he
    simp [he]
  stack := h
  index hx := by
    simp only [State.loadP_x, State.loadP_y, hx, flagWidth, if_true, trunc_w8, hiByte_mkWord, and_self]

/-- XCE into Emulation mode forces what the invariant asks there; out of it the index registers and P.X stay
(R341). -/
theorem State.exchangeCE_modeInv {s : State} (h : s.ModeInv) : s.exchangeCE.ModeInv := by
  simp only [State.exchangeCE]
  split
  · exact ⟨fun _ => by simp, fun _ => hiByte_mkWord _ _, fun _ => ⟨hiByte_mkWord _ _, hiByte_mkWord _ _⟩⟩
  · exact ⟨nofun, nofun, fun hx => h.index (by simpa using hx)⟩

/-! ### What an instruction keeps -/

/-- Two values of P select the same widths. -/
structure SameWidths (p q : Byte) : Prop where
  m : getFlag q .m = getFlag p .m
  x : getFlag q .x = getFlag p .x

theorem SameWidths.refl (p : Byte) : SameWidths p p := ⟨rfl, rfl⟩

theorem SameWidths.of_keepsFlags {p q : Byte} {l : List Flag} (h : KeepsFlags p q l) (hm : .m ∉ l) (hx : .x ∉ l) :
    SameWidths p q := ⟨h .m hm, h .x hx⟩

theorem sameWidths_putFlag (p : Byte) (f : Flag) (b : Bool) (hm : f ≠ .m) (hx : f ≠ .x) :
    SameWidths p (putFlag p f b) :=
  ⟨by rw [getFlag_putFlag, if_neg hm.symm], by rw [getFlag_putFlag, if_neg hx.symm]⟩

theorem sameWidths_setNZ (w : Width) (r : Word) (p : Byte) : SameWidths p (setNZ w r p) := by
  constructor <;> simp

theorem sameWidths_addFlags (w : Width) (res : AddResult) (p : Byte) : SameWidths p (addFlags w res p) := by
  constructor <;> simp [addFlags]

theorem sameWidths_compareFlags (w : Width) (reg m : Word) (p : Byte) : SameWidths p (compareFlags w reg m p) := by
  constructor <;> simp [compareFlags]

theorem sameWidths_bitZero (acc v : Word) (p : Byte) : SameWidths p (bitZero acc v p) :=
  sameWidths_putFlag _ _ _ nofun nofun

/-- No read-modify-write operation touches M or X. -/
theorem sameWidths_modifyOp (acc : Word) (op : ModifyOp) (w : Width) (v : Word) (p : Byte) :
    SameWidths p (modifyOp acc op w v p).2 := by
  cases op with
  | inc | dec => exact sameWidths_setNZ _ _ _
  | asl | lsr | rol | ror =>
    constructor <;> simp [modifyOp, aslOp, lsrOp, rolOp, rorOp]
  | tsb | trb => exact sameWidths_putFlag _ _ _ nofun nofun

/-- From one state to another the mode and the widths stay, and what the invariant says of S and of the index
registers. -/
structure ModesKept (s t : State) : Prop where
  e : t.e = s.e
  widths : SameWidths s.p t.p
  stack : s.stackInv → t.stackInv
  index : s.indexInv → t.indexInv

theorem ModesKept.modeInv {s t : State} (h : ModesKept s t) (hs : s.ModeInv) : t.ModeInv where
  flags he := by
    rw [h.widths.m, h.widths.x]
    exact hs.flags (h.e ▸ he)
  stack := h.stack hs.stack
  index := h.index hs.index

theorem ModesKept.trans {s t u : State} (h : ModesKept s t) (g : ModesKept t u) : ModesKept s u :=
  ⟨g.e.trans h.e, ⟨g.widths.m.trans h.widths.m, g.widths.x.trans h.widths.x⟩, g.stack ∘ h.stack,
    g.index ∘ h.index⟩

/-- S moves so that in Emulation mode it stays in page 1; the index registers stay. -/
theorem ModesKept.of_sp {s t : State} (he : t.e = s.e) (hp : SameWidths s.p t.p)
    (hsp : s.stackInv → s.e = true → hiByte t.sp = 0x01) (hx : t.x = s.x) (hy : t.y = s.y) : ModesKept s t where
  e := he
  widths := hp
  stack hs ht := hsp hs (he ▸ ht)
  index hs ht := by
    rw [hx, hy]
    exact hs (hp.x ▸ ht)

/-- Neither S nor an index register changes. -/
theorem ModesKept.of_registers {s t : State} (he : t.e = s.e) (hp : SameWidths s.p t.p) (hsp : t.sp = s.sp)
    (hx : t.x = s.x) (hy : t.y = s.y) : ModesKept s t :=
  .of_sp he hp (fun h h' => hsp ▸ h h') hx hy

/-- At 8 bits an index register is written with a high byte of 00 (R21). -/
theorem State.hiByte_trunc_xw {s : State} (h : getFlag s.p .x = true) (v : Word) : hiByte (trunc s.xw v) = 0x00 := by
  rw [State.xw, h]
  exact hiByte_mkWord _ _

/-- The index registers change by writes at the index width. -/
theorem ModesKept.of_index {s t : State} (he : t.e = s.e) (hp : SameWidths s.p t.p) (hsp : t.sp = s.sp)
    (hx : t.x = s.x ∨ ∃ v, t.x = trunc s.xw v) (hy : t.y = s.y ∨ ∃ v, t.y = trunc s.xw v) : ModesKept s t where
  e := he
  widths := hp
  stack hs ht := by
    rw [hsp]
    exact hs (he ▸ ht)
  index hs ht := by
    have hn : getFlag s.p .x = true := hp.x ▸ ht
    constructor
    · obtain hx | ⟨v, hx⟩ := hx <;> rw [hx]
      · exact (hs hn).1
      · exact State.hiByte_trunc_xw hn v
    · obtain hy | ⟨v, hy⟩ := hy <;> rw [hy]
      · exact (hs hn).2
      · exact State.hiByte_trunc_xw hn v

/-- From one state to another the mode and the widths stay, and D, PBR and DBR. -/
structure BanksKept (s t : State) : Prop extends ModesKept s t where
  d : t.d = s.d
  pbr : t.pbr = s.pbr
  dbr : t.dbr = s.dbr

theorem BanksKept.trans {s t u : State} (h : BanksKept s t) (g : BanksKept t u) : BanksKept s u :=
  ⟨h.toModesKept.trans g.toModesKept, g.d.trans h.d, g.pbr.trans h.pbr, g.dbr.trans h.dbr⟩

/-- The registers `BanksKept` speaks of, but for P. -/
def State.modeRegisters (s : State) : Bool × Word × Word × Word × Word × Byte × Byte :=
  (s.e, s.sp, s.x, s.y, s.d, s.pbr, s.dbr)

/-- C, PC, memory and the bus record may change, and P in its other flags. -/
theorem BanksKept.of_eq {s t : State} (h : t.modeRegisters = s.modeRegisters) (hp : SameWidths s.p t.p) :
    BanksKept s t := by
  simp only [State.modeRegisters, Prod.mk.injEq] at h
  obtain ⟨he, hsp, hx, hy, hd, hpbr, hdbr⟩ := h
  exact ⟨.of_registers he hp hsp hx hy, hd, hpbr, hdbr⟩

theorem BanksKept.advance (s : State) (n : Nat) : BanksKept s (s.advance n) :=
  BanksKept.of_eq rfl (.refl _)

theorem BanksKept.setP (s : State) {p : Byte} (hp : SameWidths s.p p) : BanksKept s { s with p := p } :=
  BanksKept.of_eq rfl hp

theorem BanksKept.setFlag (s : State) (f : Flag) (b : Bool) (hm : f ≠ .m) (hx : f ≠ .x) :
    BanksKept s (s.setFlag f b) :=
  BanksKept.setP s (sameWidths_putFlag _ _ _ hm hx)

theorem BanksKept.setNZ (s : State) (w : Width) (r : Word) : BanksKept s (s.setNZ w r) :=
  BanksKept.setP s (sameWidths_setNZ w r _)

theorem BanksKept.setAcc (s : State) (w : Width) (v : Word) : BanksKept s (s.setAcc w v) :=
  BanksKept.of_eq rfl (.refl _)

theorem BanksKept.setX (s : State) (v : Word) : BanksKept s (s.setX s.xw v) :=
  ⟨.of_index rfl (.refl _) rfl (.inr ⟨v, rfl⟩) (.inl rfl), rfl, rfl, rfl⟩

theorem BanksKept.setY (s : State) (v : Word) : BanksKept s (s.setY s.xw v) :=
  ⟨.of_index rfl (.refl _) rfl (.inl rfl) (.inr ⟨v, rfl⟩), rfl, rfl, rfl⟩

/-- An index register and then N and Z, as LDX, INX, TAX and PLX write them. -/
theorem BanksKept.toX (s : State) (v r : Word) : BanksKept s ((s.setX s.xw v).setNZ s.xw r) :=
  (BanksKept.setX s v).trans (BanksKept.setNZ _ _ _)

theorem BanksKept.toY (s : State) (v r : Word) : BanksKept s ((s.setY s.xw v).setNZ s.xw r) :=
  (BanksKept.setY s v).trans (BanksKept.setNZ _ _ _)

/-- C and then N and Z. -/
theorem BanksKept.toAcc (s : State) (w : Width) (v r : Word) : BanksKept s ((s.setAcc w v).setNZ w r) :=
  (BanksKept.setAcc s w v).trans (BanksKept.setNZ _ _ _)

/-! ### Loads, stores and read-modify-writes -/

theorem BanksKept.runRead (s : State) (op : ReadOp) (o : Operand) : BanksKept s (s.runRead op o) := by
  have hload (n : Width) : BanksKept s (s.noteLoad n o) := by
    rw [State.noteLoad_eq]
    exact BanksKept.of_eq rfl (.refl _)
  have hxw (n : Width) : (s.noteLoad n o).xw = s.xw := by rw [State.noteLoad_eq]; rfl
  have hp (n : Width) : (s.noteLoad n o).p = s.p := by rw [State.noteLoad_eq]
  cases op with
  | ora | and | eor | lda => exact (hload _).trans (BanksKept.toAcc _ _ _ _)
  | adc | sbc =>
    refine ((hload _).trans (BanksKept.setAcc _ _ _)).trans (BanksKept.setP _ ?_)
    rw [State.setAcc_p, hp]
    exact sameWidths_addFlags _ _ _
  | ldx =>
    have h := (hload s.xw).trans (BanksKept.toX _ (s.operandValue s.xw o) (s.operandValue s.xw o))
    rwa [hxw] at h
  | ldy =>
    have h := (hload s.xw).trans (BanksKept.toY _ (s.operandValue s.xw o) (s.operandValue s.xw o))
    rwa [hxw] at h
  | cmp | cpx | cpy =>
    refine (hload _).trans (BanksKept.setP _ ?_)
    rw [hp]
    exact sameWidths_compareFlags _ _ _ _
  | bit =>
    cases o with
    | imm v => exact BanksKept.setP _ (sameWidths_bitZero _ _ _)
    | mem m => exact (hload _).trans (BanksKept.setP _ (by constructor <;> simp [bitZero, hp]))

theorem BanksKept.store (s : State) (n : Width) (m : MemMode) (v : Word) : BanksKept s (s.store n m v) := by
  rw [State.store_eq]
  exact BanksKept.of_eq rfl (.refl _)

theorem BanksKept.rmw (s : State) (m : MemMode) (op : ModifyOp) : BanksKept s (s.rmw m (modifyOp s.acc op)) := by
  rw [State.rmw_eq]
  exact BanksKept.of_eq rfl (sameWidths_modifyOp _ _ _ _ _)

theorem BanksKept.rmwAcc (s : State) (op : ModifyOp) : BanksKept s (s.rmwAcc (modifyOp s.acc op)) :=
  (BanksKept.setAcc _ _ _).trans (BanksKept.setP _ (sameWidths_modifyOp _ _ _ _ _))

/-! ### The stack -/

theorem hiByte_spDown (sp : Word) : hiByte (spDown true sp) = 0x01 := hiByte_mkWord _ _

theorem hiByte_spUp (sp : Word) : hiByte (spUp true sp) = 0x01 := hiByte_mkWord _ _

theorem hiByte_fixedSp (sp : Word) : hiByte (fixedSp true sp) = 0x01 := hiByte_mkWord _ _

theorem BanksKept.push8 (s : State) (b : Byte) : BanksKept s (s.push8 b) :=
  ⟨.of_sp rfl (.refl _) (fun _ he => by rw [State.push8_sp, he, hiByte_spDown]) rfl rfl, rfl, rfl, rfl⟩

theorem BanksKept.pull8 (s : State) : BanksKept s s.pull8 :=
  ⟨.of_sp rfl (.refl _) (fun _ he => by rw [State.pull8_sp, he, hiByte_spUp]) rfl rfl, rfl, rfl, rfl⟩

theorem BanksKept.push16 (s : State) (v : Word) : BanksKept s (s.push16 v) :=
  (BanksKept.push8 _ _).trans (BanksKept.push8 _ _)

theorem BanksKept.pull16 (s : State) : BanksKept s s.pull16 := (BanksKept.pull8 _).trans (BanksKept.pull8 _)

theorem BanksKept.pushW (s : State) (n : Width) (v : Word) : BanksKept s (s.pushW n v) := by
  cases n with
  | w8 => exact BanksKept.push8 _ _
  | w16 => exact BanksKept.push16 _ _

theorem BanksKept.pullW (s : State) (n : Width) : BanksKept s (s.pullW n) := by
  cases n with
  | w8 => exact BanksKept.pull8 _
  | w16 => exact BanksKept.pull16 _

theorem State.pullW_xw (s : State) (n : Width) : (s.pullW n).xw = s.xw := by cases n <;> rfl

theorem BanksKept.pushWordN (s : State) (v : Word) : BanksKept s (s.pushWordN v) := by
  rw [State.pushWordN_eq]
  exact ⟨.of_sp rfl (.refl _) (fun _ he => by rw [he, hiByte_fixedSp]) rfl rfl, rfl, rfl, rfl⟩

theorem BanksKept.plx (s : State) : BanksKept s s.plx := by
  have h := (BanksKept.pullW s s.xw).trans (BanksKept.toX _ (s.pulledW s.xw) (s.pulledW s.xw))
  rwa [State.pullW_xw] at h

theorem BanksKept.ply (s : State) : BanksKept s s.ply := by
  have h := (BanksKept.pullW s s.xw).trans (BanksKept.toY _ (s.pulledW s.xw) (s.pulledW s.xw))
  rwa [State.pullW_xw] at h

theorem BanksKept.toS (s : State) (v : Word) : BanksKept s (s.toS v) :=
  ⟨.of_sp rfl (.refl _) (fun _ he => by simp [State.toS, he]) rfl rfl, rfl, rfl, rfl⟩

theorem BanksKept.call (s : State) (a : Word) : BanksKept s (s.call a) :=
  (BanksKept.push16 s (s.pc + 2)).trans (BanksKept.of_eq rfl (.refl _))

theorem BanksKept.callIndexedIndirect (s : State) (a : Word) : BanksKept s (s.callIndexedIndirect a) := by
  rw [State.callIndexedIndirect_eq]
  exact ⟨.of_sp rfl (.refl _) (fun _ he => by rw [he, hiByte_fixedSp]) rfl rfl, rfl, rfl, rfl⟩

theorem BanksKept.branch (s : State) (taken : Bool) (disp : Byte) : BanksKept s (s.branch taken disp) := by
  cases taken <;> exact BanksKept.of_eq rfl (.refl _)

/-! ### Every instruction -/

/-- The instructions that write E, D, PBR or DBR (R23, R27, R28, R30) or the whole of P (R339). -/
inductive WritesModeOrBank : Instr → Prop where
  | xce : WritesModeOrBank .xce
  | rep (v : Byte) : WritesModeOrBank (.repImm v)
  | sep (v : Byte) : WritesModeOrBank (.sepImm v)
  | plp : WritesModeOrBank .plp
  | rti : WritesModeOrBank .rti
  | tcd : WritesModeOrBank .tcd
  | pld : WritesModeOrBank .pld
  | rtl : WritesModeOrBank .rtl
  | jml (a : Word) : WritesModeOrBank (.jmlAbsInd a)
  | jsl (a : Addr) : WritesModeOrBank (.jslLong a)
  | jmp (a : Addr) : WritesModeOrBank (.jmpLong a)
  | brk (sig : Byte) : WritesModeOrBank (.brk sig)
  | cop (sig : Byte) : WritesModeOrBank (.cop sig)
  | plb : WritesModeOrBank .plb
  | mvn (dst src : Byte) : WritesModeOrBank (.mvn dst src)
  | mvp (dst src : Byte) : WritesModeOrBank (.mvp dst src)

/-- The instructions that have none of the four operand forms. -/
theorem exec_banksKept_other (i : Instr) (s t : State) (h : exec i s = .next t) (h1 : readForm i = none)
    (h2 : storeForm i = none) (h3 : modifyForm i = none) (h4 : accForm i = none) (hi : ¬ WritesModeOrBank i) :
    BanksKept s t := by
  cases i <;> obtain rfl := Host.Outcome.next.inj h
  case nop | wdm | wai | stp | brl | jmpAbs | jmpAbsInd | jmpAbsXInd =>
    exact BanksKept.of_eq rfl (.refl _)
  case tax | tyx | tsx | inx | dex =>
    exact (BanksKept.advance s 1).trans (BanksKept.toX _ _ _)
  case tay | txy | iny | dey =>
    exact (BanksKept.advance s 1).trans (BanksKept.toY _ _ _)
  case txa | tya | tdc | tsc | xba =>
    exact BanksKept.of_eq rfl (sameWidths_setNZ _ _ _)
  case clc | cld | cli | clv | sec | sed | sei =>
    exact (BanksKept.advance s 1).trans (BanksKept.setFlag _ _ _ nofun nofun)
  case txs | tcs =>
    exact (BanksKept.advance s 1).trans (BanksKept.toS _ _)
  case bcc | bcs | beq | bne | bmi | bpl | bvs | bvc | bra =>
    exact (BanksKept.advance s 2).trans (BanksKept.branch _ _ _)
  case pha | phx | phy =>
    exact (BanksKept.advance s 1).trans (BanksKept.pushW _ _ _)
  case php | phb | phk =>
    exact (BanksKept.advance s 1).trans (BanksKept.push8 _ _)
  case phd =>
    exact (BanksKept.advance s 1).trans (BanksKept.pushWordN _ _)
  case pea | per =>
    exact (BanksKept.advance s 3).trans (BanksKept.pushWordN _ _)
  case pei =>
    refine (BanksKept.advance s 2).trans (.trans ?_ (BanksKept.pushWordN _ _))
    exact BanksKept.of_eq rfl (.refl _)
  case pla =>
    exact ((BanksKept.advance s 1).trans (BanksKept.pullW _ _)).trans (BanksKept.toAcc _ _ _ _)
  case plx =>
    exact (BanksKept.advance s 1).trans (BanksKept.plx _)
  case ply =>
    exact (BanksKept.advance s 1).trans (BanksKept.ply _)
  case rts =>
    refine ((BanksKept.advance s 1).trans (BanksKept.pull16 _)).trans ?_
    exact BanksKept.of_eq rfl (.refl _)
  case jsrAbs =>
    exact BanksKept.call s _
  case jsrAbsXInd =>
    exact BanksKept.callIndexedIndirect _ _
  case xce | repImm | sepImm | plp | rti | tcd | pld | rtl | jmlAbsInd | jslLong | jmpLong | brk | cop | plb | mvn
    | mvp =>
    exact absurd (by constructor) hi
  all_goals simp [readForm, storeForm, modifyForm, accForm] at h1 h2 h3 h4

/-- Every other instruction keeps the mode, the widths, D, PBR and DBR. -/
theorem exec_banksKept (i : Instr) (s t : State) (h : exec i s = .next t) (hi : ¬ WritesModeOrBank i) :
    BanksKept s t := by
  cases h1 : readForm i with
  | some r =>
    rw [exec_readForm i r.1 r.2 s h1] at h
    obtain rfl := Host.Outcome.next.inj h
    exact (BanksKept.advance s _).trans (BanksKept.runRead _ _ _)
  | none =>
  cases h2 : storeForm i with
  | some r =>
    rw [exec_storeForm i r.1 r.2 s h2] at h
    obtain rfl := Host.Outcome.next.inj h
    refine (BanksKept.advance s (instrLength i)).trans ?_
    cases r.1 <;> exact BanksKept.store _ _ _ _
  | none =>
  cases h3 : modifyForm i with
  | some r =>
    rw [exec_modifyForm i r.1 r.2 s h3] at h
    obtain rfl := Host.Outcome.next.inj h
    exact (BanksKept.advance s _).trans (BanksKept.rmw _ _ _)
  | none =>
  cases h4 : accForm i with
  | some op =>
    rw [exec_accForm i op s h4] at h
    obtain rfl := Host.Outcome.next.inj h
    exact (BanksKept.advance s 1).trans (BanksKept.rmwAcc _ _)
  | none => exact exec_banksKept_other i s t h h1 h2 h3 h4 hi

/-! ### The instructions that write E, D, PBR, DBR or the whole of P -/

/-- Pushes keep S in page 1 (R260). -/
theorem State.hiByte_sDown {s : State} (hs : s.stackInv) (he : s.e = true) (k : Nat) : hiByte (s.sDown k) = 0x01 := by
  cases k with
  | zero => exact hs he
  | succ k => rw [State.sDown, he, hiByte_spDown]

/-- Pulls keep S in page 1 (R261). -/
theorem State.hiByte_sUp {s : State} (hs : s.stackInv) (he : s.e = true) (k : Nat) : hiByte (s.sUp k) = 0x01 := by
  cases k with
  | zero => exact hs he
  | succ k => rw [State.sUp, he, hiByte_spUp]

/-- The interrupt sequence writes S, P, PBR, DBR and PC (R410). -/
theorem State.interrupt_eq (s : State) (src : Source) (ret : Word) :
    s.interrupt src ret = { s with
      sp := (s.interrupt src ret).sp, p := (s.interrupt src ret).p, pbr := (s.interrupt src ret).pbr
      dbr := (s.interrupt src ret).dbr, pc := (s.interrupt src ret).pc, mem := (s.interrupt src ret).mem
      bus := (s.interrupt src ret).bus } :=
  (s.interrupt_entered src ret).rest

theorem ModesKept.interrupt (s : State) (src : Source) (ret : Word) : ModesKept s (s.interrupt src ret) := by
  have hent := s.interrupt_entered src ret
  refine .of_sp ?_ (.of_keepsFlags hent.flags (by decide) (by decide)) (fun hs he => ?_) ?_ ?_
  · rw [State.interrupt_eq]
  · rw [hent.sp]
    exact State.hiByte_sDown hs he _
  · rw [State.interrupt_eq]
  · rw [State.interrupt_eq]

theorem ModesKept.blockMove (s : State) (delta : Word) (dst src : Byte) : ModesKept s (s.blockMove delta dst src) :=
  .of_index rfl (.refl _) rfl (.inr ⟨_, rfl⟩) (.inr ⟨_, rfl⟩)

theorem ModesKept.callLong (s : State) (a : Addr) : ModesKept s (s.callLong a) := by
  rw [State.callLong_eq]
  exact .of_sp rfl (.refl _) (fun _ he => by rw [he, hiByte_fixedSp]) rfl rfl

/-- RTL (R310) writes S, PC and PBR. -/
theorem State.rtl_eq (s : State) :
    s.rtl = { s with
      sp := fixedSp s.e (s.sp + 1 + 1 + 1), pc := s.rtl.pc, pbr := s.rtl.pbr, bus := s.rtl.bus } := by
  simp only [State.rtl, State.jumpLong_fixSp]
  rfl

theorem ModesKept.rtl (s : State) : ModesKept s s.rtl := by
  rw [State.rtl_eq]
  exact .of_sp rfl (.refl _) (fun _ he => by rw [he, hiByte_fixedSp]) rfl rfl

/-- The end of PLD: D with N and Z, then SH (R263, R277). -/
theorem State.setD_fixSp (s : State) (v : Word) :
    (State.setNZ { s with d := v } .w16 v).fixSp =
      { s with d := v, p := Sys2Proof.Machine.setNZ .w16 v s.p, sp := fixedSp s.e s.sp } := rfl

/-- PLD (R277) writes S, D, and N and Z of P. -/
theorem State.pld_eq (s : State) :
    s.pld = { s with
      sp := fixedSp s.e (s.sp + 1 + 1), d := s.pld.d, p := Sys2Proof.Machine.setNZ .w16 s.pld.d s.p
      bus := s.pld.bus } := by
  simp only [State.pld, State.setD_fixSp]
  rfl

theorem ModesKept.pld (s : State) : ModesKept s s.pld := by
  rw [State.pld_eq]
  exact .of_sp rfl (sameWidths_setNZ _ _ _) (fun _ he => by rw [he, hiByte_fixedSp]) rfl rfl

/-- PLB is a pull with DBR, N and Z written (R276). -/
theorem ModesKept.plb (s : State) : ModesKept s s.plb :=
  (BanksKept.pull8 s).toModesKept.trans (.of_registers rfl (sameWidths_setNZ _ _ _) rfl rfl rfl)

/-- RTI loads P and pulls inside page 1 (R362). -/
theorem State.returnFromInterrupt_modeInv {s : State} (h : s.stackInv) : s.returnFromInterrupt.ModeInv := by
  have hp := State.loadP_modeInv h (s.stackByte (s.sUp 1))
  rw [State.returnFromInterrupt_eq]
  refine ⟨hp.flags, fun he => ?_, hp.index⟩
  have he : s.e = true := he
  show hiByte (if s.e then s.sUp 3 else s.sUp 4) = 0x01
  rw [if_pos he, State.hiByte_sUp h he]

/-- Every instruction keeps the invariant of the registers. -/
theorem exec_modeInv (i : Instr) (s t : State) (h : exec i s = .next t) (hs : s.ModeInv) : t.ModeInv := by
  by_cases hi : WritesModeOrBank i
  · have kept {t : State} (g : ModesKept s t) : t.ModeInv := g.modeInv hs
    have keptAfter (n : Nat) {t : State} (g : ModesKept (s.advance n) t) : t.ModeInv :=
      kept ((BanksKept.advance s n).toModesKept.trans g)
    cases hi <;> obtain rfl := Host.Outcome.next.inj h
    case xce => exact State.exchangeCE_modeInv ((BanksKept.advance s 1).modeInv hs)
    case rep | sep => exact State.loadP_modeInv (s := s.advance 2) hs.stack _
    case plp => exact State.loadP_modeInv ((BanksKept.pull8 (s.advance 1)).stack hs.stack) _
    case rti => exact State.returnFromInterrupt_modeInv hs.stack
    case tcd => exact kept (.of_registers rfl (sameWidths_setNZ _ _ _) rfl rfl rfl)
    case pld => exact keptAfter 1 (.pld _)
    case rtl => exact keptAfter 1 (.rtl _)
    case jml | jmp => exact kept (.of_registers rfl (.refl _) rfl rfl rfl)
    case jsl => exact kept (.callLong _ _)
    case brk | cop => exact keptAfter 2 (.interrupt _ _ _)
    case plb => exact keptAfter 1 (.plb _)
    case mvn | mvp => exact kept (.blockMove _ _ _ _)
  · exact (exec_banksKept i s t h hi).modeInv hs

/-! ### Who writes E, D, PBR and DBR -/

/-- XCE writes E, P, S and the index registers (R341). -/
theorem State.exchangeCE_eq (s : State) :
    s.exchangeCE = { s with
      e := s.exchangeCE.e, p := s.exchangeCE.p, sp := s.exchangeCE.sp, x := s.exchangeCE.x
      y := s.exchangeCE.y } := by
  simp only [State.exchangeCE]
  split <;> rfl

/-- Only XCE writes E (R30). -/
theorem exec_e (i : Instr) (s t : State) (h : exec i s = .next t) (hi : i ≠ .xce) : t.e = s.e := by
  by_cases hw : WritesModeOrBank i
  · cases hw <;> obtain rfl := Host.Outcome.next.inj h
    case xce => exact absurd rfl hi
    case rti => rw [State.returnFromInterrupt_eq]; rfl
    case brk | cop => exact (ModesKept.interrupt _ _ _).e
    case pld => exact (ModesKept.pld _).e
    case rtl => exact (ModesKept.rtl _).e
    case jsl => exact (ModesKept.callLong _ _).e
    all_goals rfl
  · exact (exec_banksKept i s t h hw).e

/-- Only TCD and PLD write D (R23). -/
theorem exec_d (i : Instr) (s t : State) (h : exec i s = .next t) (h1 : i ≠ .tcd) (h2 : i ≠ .pld) : t.d = s.d := by
  by_cases hw : WritesModeOrBank i
  · cases hw <;> obtain rfl := Host.Outcome.next.inj h
    case tcd => exact absurd rfl h1
    case pld => exact absurd rfl h2
    case xce => rw [State.exchangeCE_eq]; rfl
    case rti => rw [State.returnFromInterrupt_eq]; rfl
    case brk | cop => rw [State.interrupt_eq]; rfl
    case rtl => rw [State.rtl_eq]; rfl
    case jsl => rw [State.callLong_eq]
    all_goals rfl
  · exact (exec_banksKept i s t h hw).d

/-- Only returns, long jumps and calls, and the software interrupts write PBR (R27). -/
theorem exec_pbr (i : Instr) (s t : State) (h : exec i s = .next t) (hrti : i ≠ .rti) (hrtl : i ≠ .rtl)
    (hjml : ∀ a, i ≠ .jmlAbsInd a) (hjsl : ∀ a, i ≠ .jslLong a) (hjmp : ∀ a, i ≠ .jmpLong a)
    (hbrk : ∀ g, i ≠ .brk g) (hcop : ∀ g, i ≠ .cop g) : t.pbr = s.pbr := by
  by_cases hw : WritesModeOrBank i
  · cases hw <;> obtain rfl := Host.Outcome.next.inj h
    case rti => exact absurd rfl hrti
    case rtl => exact absurd rfl hrtl
    case jml a => exact absurd rfl (hjml a)
    case jsl a => exact absurd rfl (hjsl a)
    case jmp a => exact absurd rfl (hjmp a)
    case brk g => exact absurd rfl (hbrk g)
    case cop g => exact absurd rfl (hcop g)
    case xce => rw [State.exchangeCE_eq]; rfl
    case pld => rw [State.pld_eq]; rfl
    all_goals rfl
  · exact (exec_banksKept i s t h hw).pbr

/-- Only PLB and the block moves write DBR, and in Emulation mode the software interrupts (R28). -/
theorem exec_dbr (i : Instr) (s t : State) (h : exec i s = .next t) (hplb : i ≠ .plb)
    (hmvn : ∀ d r, i ≠ .mvn d r) (hmvp : ∀ d r, i ≠ .mvp d r)
    (hsoft : s.e = true → (∀ g, i ≠ .brk g) ∧ ∀ g, i ≠ .cop g) : t.dbr = s.dbr := by
  by_cases hw : WritesModeOrBank i
  · cases hw <;> obtain rfl := Host.Outcome.next.inj h
    case plb => exact absurd rfl hplb
    case mvn d r => exact absurd rfl (hmvn d r)
    case mvp d r => exact absurd rfl (hmvp d r)
    case xce => rw [State.exchangeCE_eq]; rfl
    case pld => rw [State.pld_eq]; rfl
    case rtl => rw [State.rtl_eq]; rfl
    case jsl => rw [State.callLong_eq]
    case rti => rw [State.returnFromInterrupt_eq]; rfl
    case brk g =>
      rw [(State.interrupt_entered _ _ _).dbr]
      exact if_neg fun he => (hsoft he).1 g rfl
    case cop g =>
      rw [(State.interrupt_entered _ _ _).dbr]
      exact if_neg fun he => (hsoft he).2 g rfl
    all_goals rfl
  · exact (exec_banksKept i s t h hw).dbr

/-- Settles O45: each register by its own lemma. -/
theorem registerWriters : Obligations.RegisterWriters :=
  fun i s t h => ⟨exec_e i s t h, exec_d i s t h, exec_pbr i s t h, exec_dbr i s t h⟩

/-! ### Memory under the accesses of a step -/

/-- The writes of a list of accesses inside the address space, or some of them, keep memory canonical and inside
it. -/
theorem Memory.foldl_put_keeps {bound : Nat} (owned : List AddressRange) (sel : BusAccess → Bool)
    {l : List BusAccess} (hl : ∀ a ∈ l, a.addr < bound) {m : Memory} (hw : m.wf = true)
    (hb : m.below bound = true) :
    (l.foldl (fun m a => if sel a then m.put owned a.addr a.data else m) m).wf = true ∧
      (l.foldl (fun m a => if sel a then m.put owned a.addr a.data else m) m).below bound = true := by
  induction l generalizing m with
  | nil => exact ⟨hw, hb⟩
  | cons a l ih =>
    rw [List.forall_mem_cons] at hl
    rw [List.foldl_cons]
    split
    · exact ih hl.2 (Memory.wf_put _ _ _ _ hw) (Memory.below_put _ _ _ _ _ hl.1 hb)
    · exact ih hl.2 hw hb

theorem Traced.memInv {s t : State} {l : List BusAccess} (h : Traced s t l) (hs : s.memInv) : t.memInv := by
  rw [State.memInv, h.mem, h.cfg]
  exact Memory.foldl_put_keeps _ _ (fun a ha => (h.ok a ha).1) hs.1 hs.2

/-- Every access on the bus record is one that the part makes (R37, R61, R72). -/
def State.BusOk (s : State) (v : Variant) : Prop := ∀ a ∈ s.bus, a.okFor v

theorem State.BusOk.of_nil {s : State} (h : s.bus = []) (v : Variant) : s.BusOk v := by
  rw [State.BusOk, h]
  exact nofun

theorem Traced.busOk {s t : State} {l : List BusAccess} (h : Traced s t l) (hs : s.BusOk s.cfg.variant) :
    t.BusOk s.cfg.variant := by
  rw [State.BusOk, h.bus]
  exact List.forall_mem_append.mpr ⟨hs, h.ok⟩

theorem exec_busOk {i : Instr} {s t : State} (h : exec i s = .next t) (hs : s.BusOk s.cfg.variant) :
    t.BusOk s.cfg.variant := by
  obtain ⟨l, hl⟩ := exec_traced_any i s t h
  exact hl.busOk hs

theorem exec_cfg {i : Instr} {s t : State} (h : exec i s = .next t) : t.cfg = s.cfg := by
  obtain ⟨l, hl⟩ := exec_traced_any i s t h
  exact hl.cfg

/-- Every instruction keeps the invariant. -/
theorem exec_inv {i : Instr} {s t : State} (h : exec i s = .next t) (hs : s.Inv) : t.Inv := by
  obtain ⟨l, hl⟩ := exec_traced_any i s t h
  obtain ⟨hmode, hmem⟩ := s.inv_iff.mp hs
  exact t.inv_iff.mpr ⟨exec_modeInv i s t h hmode, hl.memInv hmem⟩

/-- The interrupt sequence keeps the invariant. -/
theorem State.interrupt_inv {s : State} (src : Source) (ret : Word) (hs : s.Inv) : (s.interrupt src ret).Inv := by
  obtain ⟨l, hl⟩ := Traced.interrupt s src ret
  obtain ⟨hmode, hmem⟩ := s.inv_iff.mp hs
  exact (State.inv_iff _).mpr ⟨(ModesKept.interrupt s src ret).modeInv hmode, hl.memInv hmem⟩

/-! ### Aborts -/

/-- However a step ends, its accesses have been made; memory is as the step left it, or less its blocked writes
(R420). -/
theorem State.settle_memory (before t : State) (cls : AbortClass) (pin : AbortInput) :
    (before.settle cls pin t).cfg = t.cfg ∧ (before.settle cls pin t).bus = t.bus ∧
      ((before.settle cls pin t).mem = t.mem ∨ (before.settle cls pin t).mem = t.unblocked before.mem) := by
  obtain ⟨h, -⟩ | ⟨h, -⟩ | h | h := before.settle_cases t cls pin <;> rw [h]
  · exact ⟨rfl, rfl, .inl rfl⟩
  · exact ⟨rfl, rfl, .inl rfl⟩
  · exact ⟨rfl, rfl, .inr rfl⟩
  · cases cls <;> exact ⟨rfl, rfl, .inr rfl⟩

theorem State.settle_busOk {before t : State} {v : Variant} (cls : AbortClass) (pin : AbortInput) (h : t.BusOk v) :
    (before.settle cls pin t).BusOk v := by
  rw [State.BusOk, (before.settle_memory t cls pin).2.1]
  exact h

/-- The partial updates of a late abort keep the invariant of the registers, if the status register of a
read-modify-write selects the widths it selected before (R421). -/
theorem lateUpdate_modeInv {before t : State} (cls : AbortClass) (h : before.ModeInv)
    (hp : cls = .modify → SameWidths before.p t.p) : (lateUpdate cls t (before.restored t)).ModeInv := by
  cases cls with
  | plain => exact ⟨h.flags, h.stack, h.index⟩
  | modify => exact ModesKept.modeInv (s := before) (.of_registers rfl (hp rfl) rfl rfl rfl) h
  | rti => exact State.loadP_modeInv (s := before.restored t) h.stack _
  | sequence => exact ⟨h.flags, h.stack, h.index⟩

/-- The end of a step keeps the invariant, aborted or not. -/
theorem State.settle_inv {before t : State} (cls : AbortClass) (pin : AbortInput) (hb : before.Inv) (ht : t.Inv)
    (hcfg : t.cfg = before.cfg) (hbus : t.BusOk before.cfg.variant)
    (hp : cls = .modify → SameWidths before.p t.p) : (before.settle cls pin t).Inv := by
  obtain ⟨hbm, hbw, hbb⟩ := before.inv_iff.mp hb
  obtain ⟨htm, htw⟩ := t.inv_iff.mp ht
  refine (State.inv_iff _).mpr ⟨?_, ?_⟩
  · obtain ⟨h, -⟩ | ⟨h, -⟩ | h | h := before.settle_cases t cls pin <;> rw [h]
    · exact htm
    · exact ⟨htm.flags, htm.stack, htm.index⟩
    · exact ⟨hbm.flags, hbm.stack, hbm.index⟩
    · exact lateUpdate_modeInv cls hbm hp
  · obtain ⟨hc, -, hm⟩ := before.settle_memory t cls pin
    rw [State.memInv, hc]
    obtain hm | hm := hm <;> rw [hm]
    · exact htw
    · rw [hcfg]
      exact Memory.foldl_put_keeps _ _ (fun a ha => (hbus a ha).1) hbw hbb

/-- A read-modify-write of memory is none of the instructions that write the mode or a bank. -/
theorem not_writesModeOrBank_of_modify {i : Instr} (h : abortClass i = .modify) : ¬ WritesModeOrBank i := by
  intro hi
  cases hi <;> cases h

/-! ### The ways of a step -/

/-- Fields the invariant does not read do not matter to it. -/
theorem State.Inv.congr {s t : State} (h : s.Inv) (hcfg : t.cfg = s.cfg) (hmem : t.mem = s.mem)
    (hr : t.modeRegisters = s.modeRegisters) (hp : SameWidths s.p t.p) : t.Inv := by
  obtain ⟨hmode, hm⟩ := s.inv_iff.mp h
  refine t.inv_iff.mpr ⟨(BanksKept.of_eq hr hp).modeInv hmode, ?_⟩
  rw [State.memInv, hcfg, hmem]
  exact hm

theorem State.present_inv {s : State} (h : s.Inv) : s.present.Inv := by
  cases hin : s.inputs with
  | nil =>
    rw [State.present_of_nil hin]
    exact h.congr rfl rfl rfl (.refl _)
  | cons i l =>
    obtain ⟨hmode, hw, hb⟩ := s.inv_iff.mp h
    have hkept : BanksKept s s.present := by
      refine .of_eq ?_ ?_
      · rw [State.present_eq]; rfl
      · rw [State.present_p hin]
        split
        · exact sameWidths_putFlag _ _ _ nofun nofun
        · exact .refl _
    refine (State.inv_iff _).mpr ⟨hkept.modeInv hmode, ?_⟩
    rw [State.memInv, State.present_mem hin, State.present_cfg]
    exact Memory.setAll_keeps _ _ _ hw hb

theorem State.holdReset_inv {s : State} (h : s.Inv) : s.holdReset.Inv := by
  obtain ⟨hf, hs, hi⟩ := State.resetWith_modeInv s.cfg s.mem (Config.resetDraw s.draws)
  exact ⟨hf, hs, hi, h.memory⟩

theorem State.takeInterrupt_busOk {s : State} (src : Source) (ret : Word) (pin : AbortInput)
    (h : s.BusOk s.cfg.variant) : (s.takeInterrupt src ret pin).BusOk s.cfg.variant := by
  obtain ⟨l, hl⟩ := Traced.interrupt (s.setPc ret) src ret
  exact State.settle_busOk _ _ (hl.busOk h)

theorem State.takeInterrupt_inv {s : State} (src : Source) (ret : Word) (pin : AbortInput) (h : s.Inv)
    (hb : s.BusOk s.cfg.variant) : (s.takeInterrupt src ret pin).Inv := by
  have hbefore : (s.setPc ret).Inv := h.congr rfl rfl rfl (.refl _)
  obtain ⟨l, hl⟩ := Traced.interrupt (s.setPc ret) src ret
  exact State.settle_inv _ _ hbefore (State.interrupt_inv _ _ hbefore) hl.cfg (hl.busOk hb) nofun

/-- The accesses of an instruction, its fetches among them. -/
theorem exec_noteFetch_busOk {s r : State} {i : Instr} (h : exec i (s.noteFetch i) = .next r)
    (hs : s.BusOk s.cfg.variant) : r.BusOk s.cfg.variant := by
  obtain ⟨l, hl⟩ := Traced.noteFetch s i
  exact exec_busOk (s := s.noteFetch i) h (hl.busOk hs)

/-- Fetching and executing an instruction keeps the invariant, aborted or not. -/
theorem State.settle_exec_inv {s r : State} {i : Instr} (pin : AbortInput) (h : exec i (s.noteFetch i) = .next r)
    (hs : s.Inv) (hb : s.BusOk s.cfg.variant) : (s.settle (abortClass i) pin r).Inv := by
  have hfetch : (s.noteFetch i).Inv := hs.congr rfl rfl rfl (.refl _)
  have hcfg : r.cfg = (s.noteFetch i).cfg := exec_cfg h
  refine State.settle_inv _ _ hs (exec_inv h hfetch) hcfg (exec_noteFetch_busOk h hb) fun hm => ?_
  exact (exec_banksKept i _ r h (not_writesModeOrBank_of_modify hm)).widths

/-- Every access of a step is one that the part makes. -/
theorem step_busOk {s t : State} (h : step s = .next t) : t.BusOk s.cfg.variant := by
  have hv : ({ s.present with waiting := false } : State).BusOk s.cfg.variant := .of_nil s.present_bus _
  rw [← s.present_cfg] at hv ⊢
  obtain ⟨-, rfl⟩ | ⟨-, -, rfl⟩ | ⟨-, -, -, rfl⟩ | ⟨-, -, -, -, -, rfl⟩ |
    ⟨-, ⟨-, -, rfl⟩ | ⟨-, -, rfl⟩ | ⟨-, -, -, -, rfl⟩ | ⟨-, -, -, i, rest, r, -, hr, rfl⟩⟩ :=
      step_cases s t h
  · exact .of_nil s.present_bus _
  · obtain ⟨l, hl⟩ := Traced.loadVector
      { s.present with inReset := false, nmiPending := false, abortPending := false } resetVector
    exact hl.busOk hv
  · exact .of_nil s.present_bus _
  · exact .of_nil s.present_bus _
  · exact State.takeInterrupt_busOk _ _ _ hv
  · exact State.takeInterrupt_busOk _ _ _ hv
  · exact State.takeInterrupt_busOk _ _ _ hv
  · exact State.settle_busOk _ _ (exec_noteFetch_busOk (s := { s.present with waiting := false }) hr hv)

/-- An access that is no extra read has VDA or VPA high (R440). -/
theorem BusAccess.vda_or_vpa {a : BusAccess} (h : a.kind ≠ .spurious) : (a.vda || a.vpa) = true := by
  unfold BusAccess.vda BusAccess.vpa
  cases hk : a.kind with
  | spurious => exact absurd hk h
  | _ => rfl

/-- Settles O11: the extra read, which alone has neither VDA nor VPA high, is made on the W65C802 only. -/
theorem accessesValid : Obligations.AccessesValid := by
  intro s t h a ha
  obtain ⟨haddr, hkind⟩ := step_busOk h a ha
  exact ⟨haddr, fun hv => BusAccess.vda_or_vpa (hkind hv)⟩

/-- Settles O10: the inputs of the boundary keep the invariant, and so does each way R403 goes on from there. -/
theorem stepKeepsInv : Obligations.StepKeepsInv := by
  intro s t hs h
  have hu : s.present.Inv := State.present_inv hs
  have hv : ({ s.present with waiting := false } : State).Inv := hu.congr rfl rfl rfl (.refl _)
  have hb : ({ s.present with waiting := false } : State).BusOk s.present.cfg.variant := .of_nil s.present_bus _
  obtain ⟨-, rfl⟩ | ⟨-, -, rfl⟩ | ⟨-, -, -, rfl⟩ | ⟨-, -, -, -, -, rfl⟩ |
    ⟨-, ⟨-, -, rfl⟩ | ⟨-, -, rfl⟩ | ⟨-, -, -, -, rfl⟩ | ⟨-, -, -, i, rest, r, -, hr, rfl⟩⟩ :=
      step_cases s t h
  · exact State.holdReset_inv hu
  · exact hu.congr rfl rfl rfl (.refl _)
  · exact hu
  · exact hu.congr rfl rfl rfl (.refl _)
  · exact State.takeInterrupt_inv _ _ _ (hv.congr rfl rfl rfl (.refl _)) hb
  · exact State.takeInterrupt_inv _ _ _ (hv.congr rfl rfl rfl (.refl _)) hb
  · exact State.takeInterrupt_inv _ _ _ hv hb
  · exact State.settle_exec_inv _ hr hv hb

end Sys2Proof.Machine

/-!
PROOFS of the memory statements (20_memory.md): where the bytes of an operand lie and what they read as (O15), the
bus accesses of a read-modify-write (O29), and the bytes that the platform alone decides (O55).
-/

namespace Sys2Proof.Machine

/-! ### The bytes of an operand (R61, R63 to R65, R143) -/

/-- In the modes whose operand lies in bank 0 the next byte's offset wraps there (R65). -/
theorem byteAddr_bank_one_toNat (ea : Addr) :
    (byteAddr .bank ea 1).toNat = ea.toNat / 65536 * 65536 + (ea.toNat + 1) % 65536 := by
  simp only [byteAddr, mkAddr_toNat, bankOf_toNat, BitVec.toNat_add, offOf_toNat, BitVec.toNat_ofNat]
  omega

/-- In all other modes the next byte lies at the next of the 24-bit addresses (R64). -/
theorem byteAddr_linear_one_toNat (ea : Addr) : (byteAddr .linear ea 1).toNat = (ea.toNat + 1) % 16777216 := by
  simp only [byteAddr, BitVec.toNat_add, BitVec.toNat_ofNat]

/-- The operand of a mode is addressed inside its bank or linearly, never inside a page (R143). -/
theorem operandWrap_of_ne_bank {m : MemMode} (h : operandWrap m ≠ .bank) : operandWrap m = .linear := by
  cases m with
  | dir | dirX | dirY | stk => exact absurd rfl h
  | _ => rfl

theorem State.operandAddr_zero (s : State) (m : MemMode) : s.operandAddr m 0 = phys s.cfg.variant (s.ea m) := by
  rw [State.operandAddr, byteAddr_zero]

/-! ### What the bytes of an operand read as (R62, R63, R160) -/

theorem State.operandValue_mem_w8 (s : State) (m : MemMode) :
    s.operandValue .w8 (.mem m) = mkWord 0x00 (s.busRead .read (s.operandAddr m 0)) := rfl

theorem State.operandValue_mem_w16 (s : State) (m : MemMode) :
    s.operandValue .w16 (.mem m) =
      mkWord (s.busRead .read (s.operandAddr m 1)) (s.busRead .read (s.operandAddr m 0)) := rfl

/-- At either width the low byte is the one at the operand's address. -/
theorem State.loByte_operandValue_mem (s : State) (n : Width) (m : MemMode) :
    loByte (s.operandValue n (.mem m)) = s.busRead .read (s.operandAddr m 0) := by
  cases n <;> exact loByte_mkWord _ _

theorem State.operandValue_imm_byte_toNat (s : State) (b : Byte) :
    (s.operandValue .w8 (.imm (.byte b))).toNat = b.toNat := by
  have h : s.operandValue .w8 (.imm (.byte b)) = mkWord 0x00 (loByte (mkWord 0x00 b)) := rfl
  rw [h, loByte_mkWord, mkWord_toNat]
  exact Nat.zero_add _

/-- Settles O15: the address of the second byte by the wrap of the mode, the values byte by byte, and what a byte
reads as by who owns its address. -/
theorem operandBytes : Obligations.OperandBytes := by
  intro s m b v a bank0 p answer
  have hbank : bank0 ↔ operandWrap m = .bank := by
    cases m <;> simp [bank0, operandWrap]
  have hp (ea : Addr) : phys s.cfg.variant ea = p ea.toNat := by
    simp only [p]
    cases s.cfg.variant with
    | w65c816 => rfl
    | w65c802 => exact offOf_toNat ea
  have h0 : s.operandAddr m 0 = p a := by rw [State.operandAddr_zero, hp]
  have h1 : s.operandAddr m 1 = p (byteAddr (operandWrap m) (s.ea m) 1).toNat := hp _
  refine ⟨(byteAddr (operandWrap m) (s.ea m) 1).toNat, fun h => ?_, fun h => ?_, h0, h1, ?_, ?_,
    fun k h => ?_, fun k r => s.busRead_answered .read k r, s.operandValue_imm_byte_toNat b, rfl⟩
  · rw [hbank.mp h, byteAddr_bank_one_toNat]
  · rw [operandWrap_of_ne_bank (mt hbank.mpr h), byteAddr_linear_one_toNat]
  · rw [State.operandValue_mem_w8, mkWord_toNat, h0]
    exact Nat.zero_add _
  · rw [State.operandValue_mem_w16, mkWord_toNat, h0, h1]
    omega
  · exact h.elim (s.busRead_ram .read k) (s.busRead_unanswered .read k)

/-! ### The bus accesses of a read-modify-write (R68 (c), R69, R180) -/

/-- The reads of an operand: its low byte and at 16 bits its high byte (R68 (a)). -/
theorem State.readAccesses_operand (s : State) (lock : Bool) (m : MemMode) (n : Width) :
    s.readAccesses .read lock (operandWrap m) (s.ea m) (widthBytes n) =
      if n = .w8 then [⟨.read, s.operandAddr m 0, s.busRead .read (s.operandAddr m 0), lock⟩]
      else [⟨.read, s.operandAddr m 0, s.busRead .read (s.operandAddr m 0), lock⟩,
        ⟨.read, s.operandAddr m 1, s.busRead .read (s.operandAddr m 1), lock⟩] := by
  cases n <;> rfl

/-- The accesses of a read-modify-write, each with its byte: that of the modify cycle is the low byte as it was
read (R69, U7). -/
theorem State.rmw_bus_bytes (s : State) (m : MemMode) (op : UnaryOp) :
    let a0 := s.operandAddr m 0
    let a1 := s.operandAddr m 1
    let r := (op s.mw (s.operandValue s.mw (.mem m)) s.p).1
    let rd := fun a => (⟨.read, a, s.busRead .read a, true⟩ : BusAccess)
    (s.rmw m op).bus = s.bus ++ s.formingAccesses m ++
      (if s.mw = .w8 then [rd a0] else [rd a0, rd a1]) ++
      (if s.e then [⟨.modify, a0, s.busRead .read a0, true⟩] else []) ++
      (if s.mw = .w8 then [⟨.write, a0, loByte r, true⟩]
       else [⟨.write, a1, hiByte r, true⟩, ⟨.write, a0, loByte r, true⟩]) := by
  intro a0 a1 r rd
  rw [State.rmw_bus, State.readAccesses_operand, State.rmwOld_eq, State.loByte_operandValue_mem,
    List.append_assoc s.bus (s.formingAccesses m)]
  cases hw : s.mw <;> simp only [r, hw] <;> rfl

@[simp] theorem State.busRead_advance (s : State) (n : Nat) : (s.advance n).busRead = s.busRead := rfl

/-- What is stored does not depend on the program counter. -/
theorem Stores.of_advance {s t : State} {k : Nat} {n : Width} {m : MemMode} {v : Word}
    (h : Stores (s.advance k) t n m v) : Stores s t n m v := by
  obtain ⟨low, high, frame, kept⟩ := h
  rw [State.operandAddr_advance] at low high frame
  simp only [State.operandAddr_advance] at frame
  exact ⟨low, high, frame, kept⟩

/-- Settles O29: the instruction is one read-modify-write after PC has moved on, which changes no address and no
byte it reads. -/
theorem modifyBusOrder : Obligations.ModifyBusOrder := by
  intro i op m s t hform h
  rw [exec_modifyForm i op m s hform] at h
  obtain rfl := Host.Outcome.next.inj h
  have hstores := (State.rmw_stores (s.advance (instrLength i)) m (modifyOp s.acc op)).of_advance
  have hbus := State.rmw_bus_bytes (s.advance (instrLength i)) m (modifyOp s.acc op)
  simp only [State.mw_advance, State.operandValue_advance, State.operandAddr_advance, State.busRead_advance,
    State.formingAccesses_advance, State.advance_p, State.advance_bus, State.advance_e] at hstores hbus
  exact ⟨hstores, hbus⟩

/-! ### The bytes the platform alone decides (R62, D1, R420, D5) -/

/-- External hardware rejects and blocks every write to an address (R420, D5). -/
def State.Guards (s : State) (a : Nat) : Prop :=
  s.cfg.variant = .w65c816 ∧ ∃ r ∈ s.abortRanges,
    .write ∈ r.kinds ∧ .modify ∈ r.kinds ∧ r.blocks = true ∧ r.lo ≤ a ∧ a ≤ r.hi

/-- No write of the processor can change the byte at an address: the platform owns it or guards it. -/
def State.PlatformDecides (s : State) (a : Nat) : Prop := ¬ s.IsRam a ∨ s.Guards a

theorem State.Guards.blocks {s : State} {b : Nat} (h : s.Guards b) {a : BusAccess} (hk : isWrite a.kind = true)
    (ha : a.addr = b) : s.blocks a = true := by
  obtain ⟨hv, r, hr, hwrite, hmodify, hblocks, hlo, hhi⟩ := h
  have hkind : a.kind ∈ r.kinds := by
    cases hkd : a.kind with
    | write => exact hwrite
    | modify => exact hmodify
    | _ => rw [hkd] at hk; cases hk
  have hnames : r.names a = true := by simp [AbortRange.names, ha, hlo, hhi, hkind]
  simp only [State.blocks, hv, beq_self_eq_true, Bool.true_and, List.any_eq_true]
  exact ⟨r, hr, by rw [hnames, hblocks]; rfl⟩

/-- A write that is blocked is one that ABORT- answers. -/
theorem State.rejects_of_blocks {s : State} {a : BusAccess} (h : s.blocks a = true) : s.rejects a = true := by
  simp only [State.blocks, State.rejects, Bool.and_eq_true, List.any_eq_true] at h ⊢
  obtain ⟨hv, r, hr, hnames, -⟩ := h
  exact ⟨hv, r, hr, hnames⟩

/-- A byte stays under writes of which those to its address find it owned by the platform. -/
theorem Memory.read_foldl_put (owned : List AddressRange) (sel : BusAccess → Bool) {b : Nat} {l : List BusAccess}
    (hl : ∀ a ∈ l, sel a = true → a.addr = b → inRanges owned b ≠ false) (m : Memory) :
    (l.foldl (fun m a => if sel a then m.put owned a.addr a.data else m) m).read b = m.read b := by
  induction l generalizing m with
  | nil => rfl
  | cons a l ih =>
    rw [List.forall_mem_cons] at hl
    rw [List.foldl_cons, ih hl.2]
    split
    · next hsel =>
      by_cases hab : a.addr = b
      · exact Memory.read_put_owned _ _ _ _ _ (hl.1 hsel hab)
      · exact Memory.read_put_other _ _ _ _ _ (Ne.symm hab)
    · rfl

/-- Where no access is rejected, a byte the platform decides stays: a guarded one is not written at all. -/
theorem Traced.read_of_not_rejected {s t : State} {l : List BusAccess} {b : Nat} (h : Traced s t l)
    (hb : s.PlatformDecides b) (hl : ∀ a ∈ l, s.rejects a = false) : t.mem.read b = s.mem.read b := by
  rw [h.mem]
  refine Memory.read_foldl_put _ _ (fun a ha hk hab => ?_) _
  refine hb.resolve_right fun hg => ?_
  have hr : s.rejects a = true := State.rejects_of_blocks (hg.blocks hk hab)
  rw [hl a ha] at hr
  cases hr

/-- The writes that are not blocked leave a byte the platform decides (R420). -/
theorem Traced.read_unblocked {s t : State} {l : List BusAccess} {b : Nat} (h : Traced s t l)
    (hb : s.PlatformDecides b) : (t.unblocked s.mem).read b = s.mem.read b := by
  rw [State.unblocked, h.owned, h.blocks]
  refine Memory.read_foldl_put _ _ (fun a _ hsel hab => ?_) _
  refine hb.resolve_right fun hg => ?_
  simp only [Bool.and_eq_true, Bool.not_eq_true'] at hsel
  obtain ⟨hk, hn⟩ := hsel
  rw [hg.blocks hk hab] at hn
  cases hn

/-- Where no ABORT- comes, external hardware has rejected no access. -/
theorem State.rejects_of_abortTime_none {t : State} {cls : AbortClass} {pin : AbortInput}
    (h : t.abortTime cls pin = none) : ∀ a ∈ t.bus, t.rejects a = false := by
  cases hf : t.bus.find? t.rejects with
  | none => simpa using hf
  | some a =>
    simp only [State.abortTime, hf, Option.map_some] at h
    split at h
    · cases h
    split at h
    · cases h
    next hearly hlate =>
      cases hl : lateAccess cls a.kind
      · exact absurd (.inr (congrArg some hl)) hearly
      · exact absurd (.inr (congrArg some hl)) hlate

/-- However a step ends, it keeps a byte the platform decides: without ABORT- no access was rejected, with it the
blocked writes are undone. Only a machine that comes to wait or stop keeps its writes all the same (R435), so it
must have made none. -/
theorem Traced.read_settle {s t : State} {l : List BusAccess} {b : Nat} (cls : AbortClass) (pin : AbortInput)
    (h : Traced s { t with waiting := s.waiting, stopped := s.stopped } l) (hbus : s.bus = [])
    (hidle : (t.waiting || t.stopped) = true → t.mem = s.mem) (hb : s.PlatformDecides b) :
    (s.settle cls pin t).mem.read b = s.mem.read b := by
  have hl : t.bus = l := by rw [show t.bus = s.bus ++ l from h.bus, hbus]; rfl
  have hr : t.rejects = s.rejects := h.rejects
  have hunblocked : (t.unblocked s.mem).read b = s.mem.read b := h.read_unblocked hb
  obtain ⟨he, hnone⟩ | ⟨he, hw⟩ | he | he := s.settle_cases t cls pin <;> rw [he]
  · refine h.read_of_not_rejected hb ?_
    rw [← hl, ← hr]
    exact State.rejects_of_abortTime_none hnone
  · exact congrArg (Memory.read · b) (hidle hw)
  · exact hunblocked
  · cases cls <;> exact hunblocked

/-- A trace from a state that neither waits nor is stopped ends in such a state. -/
theorem Traced.not_idle {s t : State} {l : List BusAccess} (h : Traced s t l) (hw : s.waiting = false)
    (hs : s.stopped = false) : ¬ (t.waiting || t.stopped) = true := by
  rw [h.waiting, h.stopped, hw, hs]
  nofun

/-- Only WAI and STP make the machine wait or stop, and they write nothing (R363, R364). -/
theorem exec_mem_of_idle {i : Instr} {s t : State} (h : exec i s = .next t) (hw : s.waiting = false)
    (hs : s.stopped = false) (hidle : (t.waiting || t.stopped) = true) : t.mem = s.mem := by
  by_cases hwai : i = .wai
  · subst hwai; obtain rfl := Host.Outcome.next.inj h; rfl
  by_cases hstp : i = .stp
  · subst hstp; obtain rfl := Host.Outcome.next.inj h; rfl
  obtain ⟨l, hl⟩ := exec_traced i s t h hwai hstp
  exact absurd hidle (hl.not_idle hw hs)

/-- A running machine keeps the bytes the platform decides when it executes an instruction, aborted or not. -/
theorem State.read_settle_exec {s r : State} {i : Instr} {b : Nat} (pin : AbortInput)
    (h : exec i (s.noteFetch i) = .next r) (hbus : s.bus = []) (hw : s.waiting = false) (hs : s.stopped = false)
    (hb : s.PlatformDecides b) : (s.settle (abortClass i) pin r).mem.read b = s.mem.read b := by
  obtain ⟨k, hk⟩ := Traced.noteFetch s i
  obtain ⟨l, hl⟩ := exec_traced_any i _ r h
  exact (hk.trans hl).read_settle _ _ hbus (exec_mem_of_idle (s := s.noteFetch i) h hw hs) hb

/-- A running machine keeps the bytes the platform decides when it takes an interrupt, aborted or not. -/
theorem State.read_takeInterrupt {s : State} {b : Nat} (src : Source) (ret : Word) (pin : AbortInput)
    (hbus : s.bus = []) (hw : s.waiting = false) (hs : s.stopped = false) (hb : s.PlatformDecides b) :
    (s.takeInterrupt src ret pin).mem.read b = s.mem.read b := by
  obtain ⟨l, hl⟩ := Traced.interrupt (s.setPc ret) src ret
  have hidle := hl.not_idle hw hs
  refine Traced.read_settle (s := s.setPc ret) (l := l) .sequence pin ?_ hbus (fun h => absurd h hidle) hb
  rwa [← hl.waiting, ← hl.stopped]

/-- Settles O55: only an interrupt sequence and an instruction write memory, and both leave the byte. -/
theorem guardedBytesKept : Obligations.GuardedBytesKept := by
  intro s t a ha h
  have hb : s.present.PlatformDecides a := by
    rw [State.PlatformDecides, State.IsRam, State.Guards, s.present_owned, s.present_cfg]
    exact ha
  have hbus := s.present_bus
  obtain ⟨-, rfl⟩ | ⟨-, -, rfl⟩ | ⟨-, -, -, rfl⟩ | ⟨-, -, -, -, -, rfl⟩ |
    ⟨⟨-, -, hs, -⟩, ⟨-, -, rfl⟩ | ⟨-, -, rfl⟩ | ⟨-, -, -, -, rfl⟩ | ⟨-, -, -, i, rest, r, -, hr, rfl⟩⟩ :=
      step_cases s t h
  · rfl
  · rfl
  · rfl
  · rfl
  · exact State.read_takeInterrupt _ _ _ hbus rfl hs hb
  · exact State.read_takeInterrupt _ _ _ hbus rfl hs hb
  · exact State.read_takeInterrupt _ _ _ hbus rfl hs hb
  · exact State.read_settle_exec _ hr hbus rfl hs hb

end Sys2Proof.Machine

/-!
PROOFS of the encoding statements (30_encoding.md): decoder and encoder are inverse (O1, O2), four bytes always
decode (O3), the lengths of the instructions (O4), and written words (O5).
-/

namespace Sys2Proof.Laws.MatrixCell

/-! ### From an instruction to its cell (R95) -/

/-- Every instruction's line of the encoder agrees with the cell of its opcode: one lemma a constructor, in the
order of `Instr`. -/
theorem encode_agrees_with_cell (i : Instr) : Statement i :=
  Instr.casesOn i
    brk oraDirXInd cop oraStk tsbDir oraDir aslDir oraDirLong oraImm tsbAbs oraAbs aslAbs oraLong bpl oraDirIndY
    oraDirInd oraStkIndY trbDir oraDirX aslDirX oraDirLongY oraAbsY trbAbs oraAbsX aslAbsX oraLongX jsrAbs
    andDirXInd jslLong andStk bitDir andDir rolDir andDirLong andImm bitAbs andAbs rolAbs andLong bmi andDirIndY
    andDirInd andStkIndY bitDirX andDirX rolDirX andDirLongY andAbsY bitAbsX andAbsX rolAbsX andLongX eorDirXInd
    wdm eorStk mvp eorDir lsrDir eorDirLong eorImm jmpAbs eorAbs lsrAbs eorLong bvc eorDirIndY eorDirInd
    eorStkIndY mvn eorDirX lsrDirX eorDirLongY eorAbsY jmpLong eorAbsX lsrAbsX eorLongX adcDirXInd per adcStk
    stzDir adcDir rorDir adcDirLong adcImm jmpAbsInd adcAbs rorAbs adcLong bvs adcDirIndY adcDirInd adcStkIndY
    stzDirX adcDirX rorDirX adcDirLongY adcAbsY jmpAbsXInd adcAbsX rorAbsX adcLongX bra staDirXInd brl staStk
    styDir staDir stxDir staDirLong bitImm styAbs staAbs stxAbs staLong bcc staDirIndY staDirInd staStkIndY
    styDirX staDirX stxDirY staDirLongY staAbsY stzAbs staAbsX stzAbsX staLongX ldyImm ldaDirXInd ldxImm ldaStk
    ldyDir ldaDir ldxDir ldaDirLong ldaImm ldyAbs ldaAbs ldxAbs ldaLong bcs ldaDirIndY ldaDirInd ldaStkIndY
    ldyDirX ldaDirX ldxDirY ldaDirLongY ldaAbsY ldyAbsX ldaAbsX ldxAbsY ldaLongX cpyImm cmpDirXInd repImm cmpStk
    cpyDir cmpDir decDir cmpDirLong cmpImm cpyAbs cmpAbs decAbs cmpLong bne cmpDirIndY cmpDirInd cmpStkIndY pei
    cmpDirX decDirX cmpDirLongY cmpAbsY jmlAbsInd cmpAbsX decAbsX cmpLongX cpxImm sbcDirXInd sepImm sbcStk
    cpxDir sbcDir incDir sbcDirLong sbcImm cpxAbs sbcAbs incAbs sbcLong beq sbcDirIndY sbcDirInd sbcStkIndY pea
    sbcDirX incDirX sbcDirLongY sbcAbsY jsrAbsXInd sbcAbsX incAbsX sbcLongX php aslAcc phd clc incAcc tcs plp
    rolAcc pld sec decAcc tsc rti pha lsrAcc phk cli phy tcd rts pla rorAcc rtl sei ply tdc dey txa phb tya txs
    txy tay tax plb clv tsx tyx iny dex wai cld phx stp inx nop xba sed plx xce

end Sys2Proof.Laws.MatrixCell

namespace Sys2Proof

open Laws.MatrixCell

/-! ### From a cell to the encoder's line (R94) -/

/-- The encoder writes `op` and the operand for every instruction a format makes, and the width flags admit that
instruction exactly when they select the length of its immediate (R91, R93). -/
def Shape.EncodesAs (op : Byte) : Shape → Prop
  | .imp i => encode i = [op] ∧ ∀ m x, i.wellFormed m x = true
  | .b8 f => (∀ b, encode (f b) = [op, b]) ∧ ∀ b m x, (f b).wellFormed m x = true
  | .b16 f => (∀ w, encode (f w) = op :: wordBytes w) ∧ ∀ w m x, (f w).wellFormed m x = true
  | .b24 f => (∀ a, encode (f a) = op :: addrBytes a) ∧ ∀ a m x, (f a).wellFormed m x = true
  | .immM f => (∀ v, encode (f v) = op :: immBytes v) ∧ ∀ v m x, (f v).wellFormed m x = v.fits m
  | .immX f => (∀ v, encode (f v) = op :: immBytes v) ∧ ∀ v m x, (f v).wellFormed m x = v.fits x
  | .blk f => (∀ d s, encode (f d s) = [op, d, s]) ∧ ∀ d s m x, (f d s).wellFormed m x = true

/-- Each cell of the matrix, at its row and column, stands for what the encoder writes with that opcode: the
conjunction over the 256 cells, each part by evaluating the encoder's line or the width condition. -/
theorem encodesAs_of_mem_opcodeMatrix :
    ∀ row ∈ opcodeMatrix.zipIdx, ∀ cell ∈ row.1.zipIdx,
      cell.1.shape.EncodesAs (BitVec.ofNat 8 (16 * row.2 + cell.2)) := by
  simp only [opcodeMatrix, opcodeRow0, opcodeRow1, opcodeRow2, opcodeRow3, opcodeRow4, opcodeRow5, opcodeRow6,
    opcodeRow7, opcodeRow8, opcodeRow9, opcodeRowA, opcodeRowB, opcodeRowC, opcodeRowD, opcodeRowE, opcodeRowF,
    List.cons_append, List.nil_append, List.zipIdx_cons, List.zipIdx_nil, List.forall_mem_cons, List.not_mem_nil,
    false_implies, implies_true, and_true, Shape.EncodesAs]
  and_intros <;> intros <;> rfl

/-- A cell is found in the row of the opcode's high digit and the column of its low one. -/
theorem exists_row_of_cellOf {op : Byte} {cell : Cell} (h : cellOf op = some cell) :
    ∃ row, opcodeMatrix[op.toNat / 16]? = some row ∧ row[op.toNat % 16]? = some cell := by
  unfold cellOf at h
  split at h
  next row hrow => exact ⟨row, hrow, h⟩
  next => cases h

/-- The cell of an opcode stands for what the encoder writes with that opcode. -/
theorem encodesAs_of_cellOf {op : Byte} {cell : Cell} (h : cellOf op = some cell) : cell.shape.EncodesAs op := by
  obtain ⟨row, hrow, hcell⟩ := exists_row_of_cellOf h
  have hlaw := encodesAs_of_mem_opcodeMatrix (row, op.toNat / 16) (List.mk_mem_zipIdx_iff_getElem?.2 hrow)
    (cell, op.toNat % 16) (List.mk_mem_zipIdx_iff_getElem?.2 hcell)
  rwa [Nat.div_add_mod, BitVec.ofNat_toNat, BitVec.setWidth_eq] at hlaw

/-! ### Reading an operand back (R91, R93) -/

theorem readImm_immBytes {narrow : Bool} {v : Imm} (h : v.fits narrow = true) (rest : List Byte) :
    readImm narrow (immBytes v ++ rest) = some (v, rest) := by
  cases v with
  | byte b => simp_all [Imm.fits, immBytes, readImm]
  | word w => simp_all [Imm.fits, immBytes, wordBytes, readImm]

theorem eq_immBytes_of_readImm {narrow : Bool} {bytes rest : List Byte} {v : Imm}
    (h : readImm narrow bytes = some (v, rest)) : v.fits narrow = true ∧ bytes = immBytes v ++ rest := by
  unfold readImm at h
  split at h
  next b bs =>
    cases narrow with
    | true => cases h; exact ⟨rfl, rfl⟩
    | false =>
      cases bs with
      | nil => cases h
      | cons hi bs => cases h; simp [Imm.fits, immBytes, wordBytes]
  next => cases h

/-- What the formats IMM_M and IMM_X read is made of the immediate at the head of the bytes. -/
theorem exists_imm_of_map_readImm {narrow : Bool} {f : Imm → Instr} {bytes rest : List Byte} {i : Instr}
    (h : (readImm narrow bytes).map (fun r => (f r.1, r.2)) = some (i, rest)) :
    ∃ v, i = f v ∧ v.fits narrow = true ∧ bytes = immBytes v ++ rest := by
  obtain ⟨⟨v, bs⟩, hread, heq⟩ := Option.map_eq_some_iff.1 h
  cases heq
  exact ⟨v, rfl, eq_immBytes_of_readImm hread⟩

/-- A format reads back the operand of an instruction it makes. -/
theorem readOperand_of_makes {m x : Bool} {i : Instr} {operand : List Byte} {shape : Shape}
    (h : makes i operand shape) (hwf : i.wellFormed m x = true) (rest : List Byte) :
    readOperand m x shape (operand ++ rest) = some (i, rest) := by
  cases shape with
  | imp j => obtain ⟨rfl, rfl⟩ := h; rfl
  | b8 f => obtain ⟨b, rfl, rfl⟩ := h; rfl
  | b16 f => obtain ⟨w, rfl, rfl⟩ := h; simp [wordBytes, readOperand]
  | b24 f => obtain ⟨a, rfl, rfl⟩ := h; simp [addrBytes, readOperand]
  | immM f =>
    obtain ⟨v, rfl, rfl, hfits⟩ := h
    simp [readOperand, readImm_immBytes ((hfits m x).symm.trans hwf)]
  | immX f =>
    obtain ⟨v, rfl, rfl, hfits⟩ := h
    simp [readOperand, readImm_immBytes ((hfits m x).symm.trans hwf)]
  | blk f => obtain ⟨dst, src, rfl, rfl⟩ := h; rfl

/-- What a format of the matrix reads is what the encoder writes with the cell's opcode. -/
theorem encode_of_readOperand {m x : Bool} {op : Byte} {shape : Shape} {bytes rest : List Byte} {i : Instr}
    (hlaw : shape.EncodesAs op) (h : readOperand m x shape bytes = some (i, rest)) :
    i.wellFormed m x = true ∧ op :: bytes = encode i ++ rest := by
  cases shape with
  | imp j => obtain ⟨henc, hwf⟩ := hlaw; cases h; exact ⟨hwf m x, by rw [henc]; rfl⟩
  | b8 f =>
    obtain ⟨henc, hwf⟩ := hlaw
    match bytes with
    | b :: bs => cases h; exact ⟨hwf b m x, by rw [henc]; rfl⟩
  | b16 f =>
    obtain ⟨henc, hwf⟩ := hlaw
    match bytes with
    | lo :: hi :: bs => cases h; exact ⟨hwf _ m x, by simp [henc, wordBytes]⟩
  | b24 f =>
    obtain ⟨henc, hwf⟩ := hlaw
    match bytes with
    | lo :: hi :: bank :: bs => cases h; exact ⟨hwf _ m x, by simp [henc, addrBytes]⟩
  | immM f =>
    obtain ⟨henc, hwf⟩ := hlaw
    obtain ⟨v, rfl, hfits, rfl⟩ := exists_imm_of_map_readImm h
    exact ⟨(hwf v m x).trans hfits, by rw [henc]; rfl⟩
  | immX f =>
    obtain ⟨henc, hwf⟩ := hlaw
    obtain ⟨v, rfl, hfits, rfl⟩ := exists_imm_of_map_readImm h
    exact ⟨(hwf v m x).trans hfits, by rw [henc]; rfl⟩
  | blk f =>
    obtain ⟨henc, hwf⟩ := hlaw
    match bytes with
    | d :: s :: bs => cases h; exact ⟨hwf d s m x, by rw [henc]; rfl⟩

/-! ### Decoder and encoder are inverse (R90 to R94) -/

/-- Decoding succeeds exactly with the cell of the first byte and the operand its format reads. -/
theorem decode_eq_ok_iff {m x : Bool} {bytes : List Byte} {r : Instr × List Byte} :
    decode m x bytes = .ok r ↔ ∃ op tail cell, bytes = op :: tail ∧ cellOf op = some cell ∧
      readOperand m x cell.shape tail = some r := by
  constructor
  · intro h
    unfold decode at h
    split at h
    next => cases h
    next op tail =>
      split at h
      next => cases h
      next cell hcell =>
        split at h
        next q hread => cases h; exact ⟨op, tail, cell, rfl, hcell, hread⟩
        next => cases h
  · rintro ⟨op, tail, cell, rfl, hcell, hread⟩
    simp only [decode, hcell, hread]

/-- Settles O1: the cell of the opcode the encoder writes reads the operand it writes back. -/
theorem decodeEncode : Obligations.DecodeEncode := by
  intro m x i rest hwf
  obtain ⟨op, operand, cell, henc, hcell, hmakes⟩ := encode_agrees_with_cell i
  exact decode_eq_ok_iff.2 ⟨op, operand ++ rest, cell, by rw [henc]; rfl, hcell,
    readOperand_of_makes hmakes hwf rest⟩

/-- Settles O2: what the cell of an opcode reads is what the encoder writes with that opcode. -/
theorem encodeDecode : Obligations.EncodeDecode := by
  intro m x bytes rest i h
  obtain ⟨op, tail, cell, rfl, hcell, hread⟩ := decode_eq_ok_iff.1 h
  exact encode_of_readOperand (encodesAs_of_cellOf hcell) hread

/-- Settles O3: the matrix has a cell for every opcode, and three bytes are enough for its operand. -/
theorem everyOpcodeAssigned : Obligations.EveryOpcodeAssigned := by
  intro m x b0 b1 b2 b3
  obtain ⟨⟨i, rest⟩, h⟩ := exists_decode_four m x b0 b1 b2 b3
  exact ⟨i, rest, h⟩

/-! ### Lengths (R93) -/

/-- The number of operand bytes of a format under the width flags (R91, R93). -/
def Shape.operandLength (m x : Bool) : Shape → Nat
  | .imp _ => 0
  | .b8 _ => 1
  | .b16 _ => 2
  | .b24 _ => 3
  | .immM _ => if m then 1 else 2
  | .immX _ => if x then 1 else 2
  | .blk _ => 2

/-- The flag that selects the length of a format's operand, if one does (R93). -/
def Shape.widthFlag : Shape → Option Machine.Flag
  | .immM _ => some .m
  | .immX _ => some .x
  | _ => none

theorem Shape.operandLength_le (m x : Bool) (shape : Shape) : shape.operandLength m x ≤ 3 := by
  cases shape with
  | immM f => cases m <;> simp [Shape.operandLength]
  | immX f => cases x <;> simp [Shape.operandLength]
  | _ => simp [Shape.operandLength]

theorem length_immBytes {narrow : Bool} {v : Imm} (h : v.fits narrow = true) :
    (immBytes v).length = if narrow then 1 else 2 := by
  cases v <;> simp_all [Imm.fits, immBytes, wordBytes]

/-- The operand of an instruction has its format's length under flags that admit the instruction; of a format
whose length no flag selects, under all flags. -/
theorem length_of_makes {m x : Bool} {i : Instr} {operand : List Byte} {shape : Shape}
    (h : makes i operand shape) (hwf : i.wellFormed m x = true ∨ shape.widthFlag = none) :
    operand.length = shape.operandLength m x := by
  cases shape with
  | imp j => obtain ⟨rfl, rfl⟩ := h; rfl
  | b8 f => obtain ⟨b, rfl, rfl⟩ := h; rfl
  | b16 f => obtain ⟨w, rfl, rfl⟩ := h; rfl
  | b24 f => obtain ⟨a, rfl, rfl⟩ := h; rfl
  | blk f => obtain ⟨dst, src, rfl, rfl⟩ := h; rfl
  | immM f =>
    obtain ⟨v, rfl, rfl, hfits⟩ := h
    exact length_immBytes ((hfits m x).symm.trans (hwf.resolve_right nofun))
  | immX f =>
    obtain ⟨v, rfl, rfl, hfits⟩ := h
    exact length_immBytes ((hfits m x).symm.trans (hwf.resolve_right nofun))

/-- The immediate opcodes whose length P.M selects (R93). -/
def immMOpcodes : List Nat := [0x09, 0x29, 0x49, 0x69, 0x89, 0xA9, 0xC9, 0xE9]

/-- The immediate opcodes whose length P.X selects (R93). -/
def immXOpcodes : List Nat := [0xA0, 0xA2, 0xC0, 0xE0]

/-- The matrix has the formats IMM_M and IMM_X at the twelve immediate opcodes and nowhere else (R93, R94). -/
theorem widthFlag_cellOf : ∀ op : Byte, (cellOf op).map (·.shape.widthFlag) =
    some (if op.toNat ∈ immMOpcodes then some .m else if op.toNat ∈ immXOpcodes then some .x else none) := by
  decide

/-- The flag a cell's format depends on, by its opcode (R93). -/
theorem widthFlag_of_cellOf {op : Byte} {cell : Cell} (h : cellOf op = some cell) :
    cell.shape.widthFlag =
      if op.toNat ∈ immMOpcodes then some .m else if op.toNat ∈ immXOpcodes then some .x else none := by
  simpa only [h, Option.map_some, Option.some.injEq] using widthFlag_cellOf op

theorem Shape.operandLength_of_widthFlag_m {shape : Shape} (h : shape.widthFlag = some .m) (m x : Bool) :
    shape.operandLength m x = if m then 1 else 2 := by
  cases shape with
  | immM f => rfl
  | _ => cases h

theorem Shape.operandLength_of_widthFlag_x {shape : Shape} (h : shape.widthFlag = some .x) (m x : Bool) :
    shape.operandLength m x = if x then 1 else 2 := by
  cases shape with
  | immX f => rfl
  | _ => cases h

/-- An instruction is as long as its opcode and the operand of its opcode's format together, under flags that
admit it or select no length of that format. -/
theorem instrLength_eq (i : Instr) : ∃ op cell, Machine.opcodeOf i = op.toNat ∧ cellOf op = some cell ∧
    ∀ m x, i.wellFormed m x = true ∨ cell.shape.widthFlag = none →
      instrLength i = cell.shape.operandLength m x + 1 := by
  obtain ⟨op, operand, cell, henc, hcell, hmakes⟩ := encode_agrees_with_cell i
  refine ⟨op, cell, by rw [Machine.opcodeOf, henc]; rfl, hcell, fun m x hwf => ?_⟩
  rw [instrLength, henc, List.length_cons, length_of_makes hmakes hwf]

/-- Settles O4: the opcode fixes the cell, and the cell's format the length, but for the flag it depends on. -/
theorem lengthByFlags : Obligations.LengthByFlags := by
  intro m x i hwf
  obtain ⟨op, cell, hop, hcell, hlength⟩ := instrLength_eq i
  have hflag := widthFlag_of_cellOf hcell
  rw [hop, hlength m x (.inl hwf)]
  refine ⟨fun (hm : op.toNat ∈ immMOpcodes) => ?_, fun (hx : op.toNat ∈ immXOpcodes) => ?_,
    fun hfixed => ⟨by omega, ?_, fun j hj => ?_⟩⟩
  · rw [if_pos hm] at hflag
    rw [Shape.operandLength_of_widthFlag_m hflag]
    cases m <;> rfl
  · have hm : op.toNat ∉ immMOpcodes := (by decide : ∀ n ∈ immXOpcodes, n ∉ immMOpcodes) _ hx
    rw [if_neg hm, if_pos hx] at hflag
    rw [Shape.operandLength_of_widthFlag_x hflag]
    cases x <;> rfl
  · have := cell.shape.operandLength_le m x
    omega
  · obtain ⟨op', cell', hop', hcell', hlength'⟩ := instrLength_eq j
    obtain rfl : op' = op := BitVec.eq_of_toNat_eq (hop'.symm.trans hj)
    obtain rfl : cell' = cell := Option.some.inj (hcell'.symm.trans hcell)
    obtain ⟨hm, hx⟩ : op'.toNat ∉ immMOpcodes ∧ op'.toNat ∉ immXOpcodes :=
      not_or.1 (mt List.mem_append.2 hfixed)
    rw [if_neg hm, if_neg hx] at hflag
    exact hlength' m x (.inr hflag)

/-- Settles O5: each word by reading its cell and its operand. -/
theorem writtenWords : Obligations.WrittenWords :=
  ⟨rfl, rfl, rfl, rfl, rfl, rfl, rfl, rfl, rfl, rfl⟩

end Sys2Proof

/-!
PROOFS of the addressing-mode statements (40_addressing_modes.md): the effective addresses of the direct modes (O12),
of the absolute modes and the stack-relative one (O13), and of the modes that read a pointer (O14).
-/

namespace Sys2Proof.Machine

/-! ### Base and index (R120, R143) -/

theorem zext24_toNat (v : Word) : (zext24 v).toNat = v.toNat :=
  BitVec.toNat_setWidth_of_le (by decide)

/-- The index carries into the bank of the base, and the sum wraps above FFFFFF (R64, R120). -/
theorem State.ea_toNat (s : State) (m : MemMode) :
    (s.ea m).toNat = ((s.baseIndex m).1.toNat + (s.baseIndex m).2.toNat) % 16777216 := by
  rw [State.ea, BitVec.toNat_add, zext24_toNat]

/-- A mode without a final index addresses its base. -/
theorem State.ea_of_index_zero {s : State} {m : MemMode} (h : (s.baseIndex m).2 = 0) :
    s.ea m = (s.baseIndex m).1 := by
  rw [State.ea, h]
  exact BitVec.add_zero _

/-! ### The direct page (R122 to R124) -/

theorem State.pageWrap_iff (s : State) : s.pageWrap = true ↔ s.e = true ∧ s.d.toNat % 256 = 0 := by
  rw [State.pageWrap, Bool.and_eq_true, beq_iff_eq, ← BitVec.toNat_inj, loByte_toNat]
  rfl

/-- `DirAddr` as a number: inside the page of DH, or the 16-bit sum (R122). -/
theorem State.dirAddr_toNat (s : State) (off : Byte) (idx : Word) :
    (s.dirAddr off idx).toNat =
      if s.e = true ∧ s.d.toNat % 256 = 0 then s.d.toNat / 256 * 256 + (off.toNat + idx.toNat) % 256
      else (s.d.toNat + off.toNat + idx.toNat) % 65536 := by
  simp only [State.dirAddr, State.pageWrap_iff]
  split
  · rw [mkWord_toNat, hiByte_toNat, BitVec.toNat_add, loByte_toNat, Nat.add_mod_mod]
  · rw [BitVec.toNat_add, BitVec.toNat_add, BitVec.toNat_setWidth_of_le (by decide), Nat.mod_add_mod]

/-- `d`, `d,x` and `d,y` address `DirAddr` in bank 0 (R123, R124). -/
theorem State.ea_direct {s : State} {off : Byte} {m : MemMode} {idx : Word}
    (h : (m = .dir off ∧ idx = 0) ∨ (m = .dirX off ∧ idx = s.x) ∨ (m = .dirY off ∧ idx = s.y)) :
    s.ea m = mkAddr 0x00 (s.dirAddr off idx) := by
  obtain ⟨rfl, rfl⟩ | ⟨rfl, rfl⟩ | ⟨rfl, rfl⟩ := h <;> exact State.ea_of_index_zero rfl

theorem mkAddr_bank0_toNat (o : Word) : (mkAddr 0x00 o).toNat = o.toNat := by
  rw [mkAddr_toNat]
  exact Nat.zero_add _

/-- Settles O12: the three modes share `DirAddr`, each with its index. -/
theorem directAddresses : Obligations.DirectAddresses := by
  intro s off m idx h
  rw [State.ea_direct h, mkAddr_bank0_toNat, State.dirAddr_toNat]

/-! ### The absolute modes and the stack (R125, R126, R129, R134, R140) -/

/-- The stack offset is added in 16 bits, whatever the mode of the processor (R140, D7). -/
theorem State.stackRel_toNat (s : State) (off : Byte) :
    (s.stackRel off).toNat = (s.sp.toNat + off.toNat) % 65536 := by
  rw [State.stackRel, BitVec.toNat_add, BitVec.toNat_setWidth_of_le (by decide)]

theorem State.ea_stk (s : State) (off : Byte) : s.ea (.stk off) = mkAddr 0x00 (s.stackRel off) :=
  State.ea_of_index_zero rfl

/-- Settles O13: each mode by its base and its index. -/
theorem absoluteAddresses : Obligations.AbsoluteAddresses := by
  intro s a al off
  have habs : s.ea (.abs a) = mkAddr s.dbr a := State.ea_of_index_zero rfl
  have hlong : s.ea (.long al) = al := State.ea_of_index_zero rfl
  refine ⟨?_, ?_, ?_, hlong, s.ea_toNat (.longX al), ?_⟩
  · rw [habs, mkAddr_toNat]
  · rw [State.ea_toNat, State.baseIndex, mkAddr_toNat]
  · rw [State.ea_toNat, State.baseIndex, mkAddr_toNat]
  · rw [State.ea_stk, mkAddr_bank0_toNat, State.stackRel_toNat]

/-! ### The modes that read a pointer (R122, R130 to R133, R141) -/

/-- The second byte of a pointer in the direct page lies in the page of the first in Emulation mode with DL = 00,
otherwise in its bank (R122). -/
theorem State.byteAddr_ptrWrap_one (s : State) (b : Byte) (o : Word) :
    byteAddr s.ptrWrap (mkAddr b o) 1 =
      mkAddr b (if s.e = true ∧ s.d.toNat % 256 = 0 then mkWord (hiByte o) (loByte o + 1) else o + 1) := by
  simp only [State.ptrWrap, State.pageWrap_iff]
  split
  · simp only [byteAddr, bankOf_mkAddr, offOf_mkAddr]
    rfl
  · exact byteAddr_bank b o 1

/-- A 16-bit read as a number: the low byte at the address, the high byte at the next one (R63). -/
theorem State.peek16_toNat (s : State) (k : BusKind) (w : Wrap) (ea : Addr) :
    (s.peek16 k w ea).toNat = (s.peek k ea).toNat + 256 * (s.peek k (byteAddr w ea 1)).toNat := by
  rw [State.peek16, mkWord_toNat, byteAddr_zero]
  omega

/-- A 24-bit read that wraps in its bank as a number (R63, R65). -/
theorem State.peek24_bank_toNat (s : State) (k : BusKind) (b : Byte) (o : Word) :
    (s.peek24 k .bank (mkAddr b o)).toNat =
      (s.peek k (mkAddr b o)).toNat + 256 * (s.peek k (mkAddr b (o + 1))).toNat +
        65536 * (s.peek k (mkAddr b (o + 2))).toNat := by
  rw [State.peek24_bank, mkAddr_toNat, mkWord_toNat]
  omega

/-- Settles O14: each mode by its pointer, its bank and its index. -/
theorem indirectAddresses : Obligations.IndirectAddresses := by
  intro s off at0 next ptr16 ptr24 bank pa px ps
  have hpa : pa = s.dirAddr off 0 := by
    simp only [pa, State.ea_direct (.inl ⟨rfl, rfl⟩), offOf_mkAddr]
  have hpx : px = s.dirAddr off s.x := by
    simp only [px, State.ea_direct (.inr (.inl ⟨rfl, rfl⟩)), offOf_mkAddr]
  have hps : ps = s.stackRel off := by simp only [ps, State.ea_stk, offOf_mkAddr]
  have hptr16 (o : Word) : (s.peek16 .pointer s.ptrWrap (mkAddr 0x00 o)).toNat = ptr16 o := by
    rw [State.peek16_toNat, State.byteAddr_ptrWrap_one]
  have hptr24 (o : Word) : (s.peek24 .pointer .bank (mkAddr 0x00 o)).toNat = ptr24 o :=
    s.peek24_bank_toNat .pointer 0x00 o
  have hstk (o : Word) :
      (s.peek16 .pointer .bank (mkAddr 0x00 o)).toNat = at0 o + 256 * at0 (o + 1) := by
    rw [State.peek16_toNat, byteAddr_bank]
    rfl
  rw [hpa, hpx, hps]
  refine ⟨?_, ?_, ?_, ?_, ?_, ?_⟩
  · rw [State.ea_of_index_zero rfl, State.baseIndex, mkAddr_toNat, hptr16]
  · rw [State.ea_of_index_zero rfl, State.baseIndex, mkAddr_toNat, hptr16]
  · rw [State.ea_toNat, State.baseIndex, mkAddr_toNat, hptr16]
  · rw [State.ea_of_index_zero rfl, State.baseIndex, hptr24]
  · rw [State.ea_toNat, State.baseIndex, hptr24]
  · rw [State.ea_toNat, State.baseIndex, mkAddr_toNat, hstk, Nat.add_assoc bank (at0 _)]

end Sys2Proof.Machine

/-!
PROOFS of the load and store statements (41_load_store.md): LDA (O16), LDX and LDY (O17), and the stores (O18).
-/

namespace Sys2Proof.Machine

/-! ### Loads (R160 to R163) -/

/-- LDA changes C, P and the bus record (R161). -/
theorem State.lda_eq (s : State) (o : Operand) :
    s.lda o = { s with
      c := insertAcc s.mw s.c (s.operandValue s.mw o)
      p := Machine.setNZ s.mw (s.operandValue s.mw o) s.p
      bus := (s.noteLoad s.mw o).bus } := by
  rw [State.lda, State.noteLoad_eq]
  rfl

/-- LDX changes X, P and the bus record (R162). -/
theorem State.ldx_eq (s : State) (o : Operand) :
    s.ldx o = { s with
      x := trunc s.xw (s.operandValue s.xw o)
      p := Machine.setNZ s.xw (s.operandValue s.xw o) s.p
      bus := (s.noteLoad s.xw o).bus } := by
  rw [State.ldx, State.noteLoad_eq]
  rfl

/-- LDY changes Y, P and the bus record (R163). -/
theorem State.ldy_eq (s : State) (o : Operand) :
    s.ldy o = { s with
      y := trunc s.xw (s.operandValue s.xw o)
      p := Machine.setNZ s.xw (s.operandValue s.xw o) s.p
      bus := (s.noteLoad s.xw o).bus } := by
  rw [State.ldy, State.noteLoad_eq]
  rfl

/-- Settles O16: in each form LDA is one load after PC has moved on, which changes no operand. -/
theorem loadAccumulator : Obligations.LoadAccumulator := by
  intro i o s hform
  have hexec : exec i s = .next ((s.advance (instrLength i)).lda o) := exec_readForm i .lda o s hform
  rw [State.lda_eq, State.operandValue_advance, State.mw_advance] at hexec
  exact ⟨_, hexec, accWritten_insertAcc _ _ _, setsNZ_setNZ _ _ _, rfl⟩

/-- Settles O17: in each form LDX and LDY are one load after PC has moved on, which changes no operand. -/
theorem loadIndex : Obligations.LoadIndex := by
  intro i o s
  constructor
  · intro hform
    have hexec : exec i s = .next ((s.advance (instrLength i)).ldx o) := exec_readForm i .ldx o s hform
    rw [State.ldx_eq, State.operandValue_advance, State.xw_advance] at hexec
    exact ⟨_, hexec, indexWritten_trunc _ _, setsNZ_setNZ _ _ _, rfl⟩
  · intro hform
    have hexec : exec i s = .next ((s.advance (instrLength i)).ldy o) := exec_readForm i .ldy o s hform
    rw [State.ldy_eq, State.operandValue_advance, State.xw_advance] at hexec
    exact ⟨_, hexec, indexWritten_trunc _ _, setsNZ_setNZ _ _ _, rfl⟩

/-! ### Stores (R68 (b), R160, R164 to R167) -/

/-- A store after PC has moved on: the bytes it stores, its accesses in order, and its frame. -/
theorem State.store_advance (s : State) (k : Nat) (n : Width) (m : MemMode) (v : Word) :
    let t := (s.advance k).store n m v
    Stores s t n m v ∧
      t.bus = s.bus ++ s.formingAccesses m ++ ⟨.write, s.operandAddr m 0, loByte v, false⟩ ::
        (if n = .w8 then [] else [⟨.write, s.operandAddr m 1, hiByte v, false⟩]) ∧
      t = { s with pc := s.pc + BitVec.ofNat 16 k, mem := t.mem, bus := t.bus } := by
  refine ⟨((s.advance k).store_stores n m v).of_advance, ?_, (s.advance k).store_eq n m v⟩
  rw [State.store_bus, State.formingAccesses_advance, State.operandAddr_advance, State.operandAddr_advance,
    State.advance_bus]

/-- Settles O18: each mnemonic is one store, of its own register at its own width, after PC has moved on. -/
theorem storeInstructions : Obligations.StoreInstructions := by
  intro i op m s hform
  have hexec : exec i s = .next ((s.advance (instrLength i)).runStore op m) := exec_storeForm i op m s hform
  cases op with
  | sta => exact ⟨_, hexec, s.store_advance _ s.mw m s.c⟩
  | stx => exact ⟨_, hexec, s.store_advance _ s.xw m s.x⟩
  | sty => exact ⟨_, hexec, s.store_advance _ s.xw m s.y⟩
  | stz => exact ⟨_, hexec, s.store_advance _ s.mw m 0⟩

end Sys2Proof.Machine

/-!
PROOFS of the arithmetic and logic statements (42_arithmetic_logic.md): ADC and SBC (O19 to O22), the logical
instructions (O23), the comparisons (O24), BIT (O25), INC and DEC (O26), shifts and rotates (O27), TSB and TRB (O28),
and the steps of the index registers (O30).
-/

namespace Sys2Proof.Machine

/-! ### Numbers at a width (R10) -/

theorem two_pow_widthBits_dvd (w : Width) : 2 ^ widthBits w ∣ 2 ^ 16 := by cases w <;> decide

theorem lt_two_pow_of_lt_width {w : Width} {n : Nat} (h : n < 2 ^ widthBits w) : n < 2 ^ 16 :=
  lt_of_lt_of_le h (Nat.le_of_dvd (by decide) (two_pow_widthBits_dvd w))

theorem toNat_trunc_ofNat (w : Width) (n : Nat) : (trunc w (BitVec.ofNat 16 n)).toNat = n % 2 ^ widthBits w := by
  rw [trunc_toNat, BitVec.toNat_ofNat, Nat.mod_mod_of_dvd _ (two_pow_widthBits_dvd w)]

/-- A value below 2^w is spelled by its number. -/
theorem eq_ofNat_of_toNat {v : Word} {n : Nat} (h : v.toNat = n) : v = BitVec.ofNat 16 n := by
  rw [← h, BitVec.ofNat_toNat, BitVec.setWidth_eq]

/-- A sum narrowed to a width is the sum modulo 2^w. -/
theorem trunc_add (w : Width) (a b : Word) :
    trunc w (a + b) = BitVec.ofNat 16 ((a.toNat % 2 ^ widthBits w + b.toNat) % 2 ^ widthBits w) := by
  apply eq_ofNat_of_toNat
  rw [trunc_toNat, BitVec.toNat_add, Nat.mod_mod_of_dvd _ (two_pow_widthBits_dvd w), Nat.mod_add_mod]

/-- A difference narrowed to a width is the difference modulo 2^w. -/
theorem trunc_sub (w : Width) (a b : Word) (hb : b.toNat < 2 ^ widthBits w) :
    trunc w (a - b) =
      BitVec.ofNat 16 ((a.toNat % 2 ^ widthBits w + 2 ^ widthBits w - b.toNat) % 2 ^ widthBits w) := by
  apply eq_ofNat_of_toNat
  rw [trunc_toNat, BitVec.toNat_sub]
  cases w <;> simp only [widthBits] at hb ⊢ <;> omega

/-- One more at a width, whatever lies above it. -/
theorem trunc_add_one (w : Width) (v : Word) :
    trunc w (v + 1) = BitVec.ofNat 16 ((v.toNat % 2 ^ widthBits w + 1) % 2 ^ widthBits w) := trunc_add w v 1

/-- One less at a width. -/
theorem trunc_sub_one (w : Width) (v : Word) :
    trunc w (v - 1) =
      BitVec.ofNat 16 ((v.toNat % 2 ^ widthBits w + 2 ^ widthBits w - 1) % 2 ^ widthBits w) :=
  trunc_sub w v 1 (by cases w <;> decide)

/-- A value narrowed to a width is 0 exactly when none of its low bits is set. -/
theorem trunc_beq_zero_iff (w : Width) (v : Word) :
    (trunc w v == 0#16) = true ↔ ∀ k, k < widthBits w → v.getLsbD k = false := by
  rw [beq_iff_eq]
  constructor
  · intro h k hk
    have hbit := getLsbD_trunc w v k
    rwa [h, BitVec.getLsbD_zero, decide_eq_true hk, Bool.true_and, eq_comm] at hbit
  · intro h
    apply BitVec.eq_of_getLsbD_eq
    intro k _
    rw [getLsbD_trunc, BitVec.getLsbD_zero, Bool.and_eq_false_imp]
    exact fun hk => h k (of_decide_eq_true hk)

theorem State.getLsbD_acc (s : State) (k : Nat) : s.acc.getLsbD k = (decide (k < widthBits s.mw) && s.c.getLsbD k) :=
  getLsbD_trunc s.mw s.c k

/-! ### The adder (R183) -/

theorem complement_toNat (w : Width) (v : Word) (h : v.toNat < 2 ^ widthBits w) :
    (complement w v).toNat = 2 ^ widthBits w - 1 - v.toNat := by
  rw [complement, trunc_toNat, BitVec.toNat_not]
  cases w <;> simp only [widthBits] at h ⊢ <;> omega

/-- The complement is the number -v - 1 (R182). -/
theorem signedValue_complement (w : Width) (v : Word) (h : v.toNat < 2 ^ widthBits w) :
    signedValue w (complement w v) = -signedValue w v - 1 := by
  have hc := complement_toNat w v h
  simp only [signedValue_eq, topBit_iff, hc]
  cases w <;> simp only [widthBits] at h ⊢ <;> split_ifs <;> omega

theorem addBinary_toNat (w : Width) (a m : Word) (c : Bool) :
    (addBinary w a m c).r.toNat = (a.toNat + m.toNat + c.toNat) % 2 ^ widthBits w :=
  toNat_trunc_ofNat w _

/-- V of the binary adder: the signed sum does not fit the width (U2). -/
theorem addBinary_v_iff (w : Width) (a m : Word) (c : Bool) :
    (addBinary w a m c).v = true ↔ ¬ fitsSigned w (signedValue w a + signedValue w m + c.toNat) :=
  overflow_iff w a m _ c (by rw [toNat_trunc_ofNat, Nat.mod_mod])

/-- A number below `n` and a carry worth `n` are the residue of their sum and whether it reaches `n`. -/
theorem mod_and_carry {x n s : Nat} {c : Bool} (h : x + n * c.toNat = s) (hx : x < n) :
    x = s % n ∧ c = decide (n ≤ s) := by
  subst h
  cases c with
  | false => simpa using ⟨(Nat.mod_eq_of_lt hx).symm, hx⟩
  | true => simpa using (Nat.mod_eq_of_lt hx).symm

theorem pow_widthDigits (w : Width) : 16 ^ widthDigits w = 2 ^ widthBits w := by cases w <;> rfl

/-- The result of the decimal adder is its digits: they fit the width. -/
theorem addDecimal_toNat (sub : Bool) (w : Width) (a m : Word) (c : Bool)
    (h : (decimalDigits sub (widthDigits w) a.toNat m.toNat c).1 < 16 ^ widthDigits w) :
    (addDecimal sub w a m c).r.toNat = (decimalDigits sub (widthDigits w) a.toNat m.toNat c).1 := by
  rw [pow_widthDigits] at h
  exact Nat.mod_eq_of_lt (lt_two_pow_of_lt_width h)

/-- What a correct BCD adder answers: packed digits of the width, the sum modulo 10^k, and the carry. -/
structure SumsBcd (w : Width) (sum : Nat) (res : AddResult) : Prop where
  valid : validBcd (widthDigits w) res.r.toNat = true
  lt : res.r.toNat < 2 ^ widthBits w
  value : bcdValue (widthDigits w) res.r.toNat = sum % 10 ^ widthDigits w
  carry : res.carry = decide (10 ^ widthDigits w ≤ sum)

/-- Digits with their carry make a correct answer. -/
theorem sumsBcd_addDecimal {sub : Bool} {w : Width} {a m : Word} {c : Bool} {sum : Nat}
    (h : let r := decimalDigits sub (widthDigits w) a.toNat m.toNat c
      validBcd (widthDigits w) r.1 = true ∧ r.1 < 16 ^ widthDigits w ∧
        bcdValue (widthDigits w) r.1 + 10 ^ widthDigits w * r.2.toNat = sum) :
    SumsBcd w sum (addDecimal sub w a m c) := by
  obtain ⟨hvalid, hlt, hsum⟩ := h
  have hr := addDecimal_toNat sub w a m c hlt
  obtain ⟨hvalue, hcarry⟩ := mod_and_carry hsum (bcd_lt _ _ hvalid)
  exact ⟨hr ▸ hvalid, by rwa [hr, ← pow_widthDigits], hr ▸ hvalue, hcarry⟩

/-- Both choices of DECIMAL_ALU answer the same to packed BCD, but for V (U1). -/
theorem sumsBcd_addWithCarry {alu : DecimalAlu} {sub : Bool} {w : Width} {a m : Word} {c : Bool} {sum : Nat}
    (ha : validBcd (widthDigits w) a.toNat = true)
    (hm : validBcd (widthDigits w) (if sub then complement w m else m).toNat = true)
    (h : SumsBcd w sum (addDecimal sub w a m c)) : SumsBcd w sum (addWithCarry alu true sub w a m c) := by
  cases alu with
  | adopted => exact h
  | unspecified =>
    obtain ⟨hvalid, hlt, hvalue, hcarry⟩ := h
    have hfree : addWithCarry .unspecified true sub w a m c = { addDecimal sub w a m c with
        v := (Config.decimalFree a m c (w == .w16) sub).2.2 } := by
      show addDecimalFree sub w a m c = _
      rw [addDecimalFree, ha, hm]
      rfl
    rw [hfree]
    exact ⟨hvalid, hlt, hvalue, hcarry⟩

/-! ### ADC and SBC (R181 to R183) -/

/-- What the adder gets and answers in ADC and SBC. -/
def State.adder (s : State) (sub : Bool) (o : Operand) : AddResult :=
  let v := s.operandValue s.mw o
  addWithCarry s.cfg.decimalAlu (getFlag s.p .d) sub s.mw s.acc (if sub then complement s.mw v else v)
    (getFlag s.p .c)

/-- ADC and SBC change C, P and the bus record. -/
theorem State.addTo_eq (s : State) (sub : Bool) (o : Operand) :
    s.addTo sub o = { s with
      c := insertAcc s.mw s.c (s.adder sub o).r
      p := addFlags s.mw (s.adder sub o) s.p
      bus := (s.noteLoad s.mw o).bus } := by
  rw [State.addTo, State.noteLoad_eq]
  rfl

@[simp] theorem State.adder_advance (s : State) (k : Nat) (sub : Bool) (o : Operand) :
    (s.advance k).adder sub o = s.adder sub o := by
  simp only [State.adder, State.operandValue_advance, State.mw_advance, State.acc_advance, State.advance_cfg,
    State.advance_p]

theorem getFlag_addFlags (w : Width) (res : AddResult) (p : Byte) (f : Flag) :
    getFlag (addFlags w res p) f =
      if f = .c then res.carry else if f = .v then res.v else getFlag (setNZ w res.r p) f := by
  rw [addFlags, getFlag_putFlag, getFlag_putFlag]

/-- From one state to another an instruction of a length has put the adder's answer in the accumulator and in N, V,
Z and C. -/
structure AddsUp (s t : State) (len : Nat) (res : AddResult) : Prop where
  acc : AccWritten s.mw s.c t.c res.r
  n : getFlag t.p .n = res.r.getLsbD (widthBits s.mw - 1)
  z : getFlag t.p .z = decide (res.r.toNat = 0)
  c : getFlag t.p .c = res.carry
  v : getFlag t.p .v = res.v
  flags : KeepsFlags s.p t.p [.n, .v, .z, .c]
  frame : t = { s with c := t.c, p := t.p, pc := s.pc + BitVec.ofNat 16 len, bus := t.bus }

theorem State.addTo_advance (s : State) (len : Nat) (sub : Bool) (o : Operand)
    (hlt : (s.adder sub o).r.toNat < 2 ^ widthBits s.mw) :
    AddsUp s ((s.advance len).addTo sub o) len (s.adder sub o) := by
  have hnz := setsNZ_setNZ s.p s.mw (s.adder sub o).r
  rw [State.addTo_eq, State.adder_advance]
  refine ⟨accWritten_insertAcc _ _ _, ?_, ?_, ?_, ?_, ?_, rfl⟩
  · exact (getFlag_addFlags _ _ _ .n).trans hnz.n
  · rw [← Nat.mod_eq_of_lt hlt]
    exact (getFlag_addFlags _ _ _ .z).trans hnz.z
  · exact getFlag_addFlags _ _ _ _
  · exact getFlag_addFlags _ _ _ _
  · intro f hf
    simp only [List.mem_cons, List.not_mem_nil, or_false, not_or] at hf
    obtain ⟨hn, hv, hz, hc⟩ := hf
    rw [getFlag_addFlags, if_neg hc, if_neg hv]
    exact hnz.rest f hn hz

/-- ADC in each form. -/
theorem exec_adc {i : Instr} {o : Operand} {s : State} (h : readForm i = some (.adc, o))
    (hlt : (s.adder false o).r.toNat < 2 ^ widthBits s.mw) :
    ∃ t, exec i s = .next t ∧ AddsUp s t (instrLength i) (s.adder false o) :=
  ⟨_, exec_readForm i .adc o s h, s.addTo_advance _ false o hlt⟩

/-- SBC in each form. -/
theorem exec_sbc {i : Instr} {o : Operand} {s : State} (h : readForm i = some (.sbc, o))
    (hlt : (s.adder true o).r.toNat < 2 ^ widthBits s.mw) :
    ∃ t, exec i s = .next t ∧ AddsUp s t (instrLength i) (s.adder true o) :=
  ⟨_, exec_readForm i .sbc o s h, s.addTo_advance _ true o hlt⟩

/-- ADC adds the operand. -/
theorem State.adder_adc (s : State) (o : Operand) :
    s.adder false o = addWithCarry s.cfg.decimalAlu (getFlag s.p .d) false s.mw s.acc (s.operandValue s.mw o)
      (getFlag s.p .c) := rfl

/-- SBC adds the complement of the operand (R182). -/
theorem State.adder_sbc (s : State) (o : Operand) :
    s.adder true o = addWithCarry s.cfg.decimalAlu (getFlag s.p .d) true s.mw s.acc
      (complement s.mw (s.operandValue s.mw o)) (getFlag s.p .c) := rfl

theorem addBinary_lt (w : Width) (a m : Word) (c : Bool) : (addBinary w a m c).r.toNat < 2 ^ widthBits w := by
  rw [addBinary_toNat]
  exact Nat.mod_lt _ (Nat.two_pow_pos _)

/-- SBC adds the complement: with the carry it is the difference less the borrow (R182, U3). -/
theorem add_complement {w : Width} {v : Word} (hv : v.toNat < 2 ^ widthBits w) (a : Nat) (c : Bool) :
    a + (complement w v).toNat + c.toNat = a + 2 ^ widthBits w - (v.toNat + (!c).toNat) := by
  rw [complement_toNat w v hv]
  cases c <;> simp only [Bool.not_false, Bool.not_true, Bool.toNat_false, Bool.toNat_true] <;> omega

theorem addBinary_complement_toNat {w : Width} {v : Word} (hv : v.toNat < 2 ^ widthBits w) (a : Word) (c : Bool) :
    (addBinary w a (complement w v) c).r.toNat =
      (a.toNat + 2 ^ widthBits w - (v.toNat + (!c).toNat)) % 2 ^ widthBits w := by
  rw [addBinary_toNat, add_complement hv]

/-- Carry of a subtraction: no borrow occurred (U3). -/
theorem addBinary_complement_carry {w : Width} {v : Word} (hv : v.toNat < 2 ^ widthBits w) (a : Word) (c : Bool) :
    (addBinary w a (complement w v) c).carry = decide (v.toNat + (!c).toNat ≤ a.toNat) := by
  have hc : (!c).toNat ≤ 1 := Bool.toNat_le _
  simp only [addBinary, add_complement hv, decide_eq_decide]
  omega

/-- V of a subtraction: the signed difference does not fit the width (U2). -/
theorem addBinary_complement_v_iff {w : Width} {v : Word} (hv : v.toNat < 2 ^ widthBits w) (a : Word) (c : Bool) :
    (addBinary w a (complement w v) c).v = true ↔
      ¬ fitsSigned w (signedValue w a - signedValue w v - (!c).toNat) := by
  have hc : (!c).toNat + c.toNat = 1 := by cases c <;> rfl
  have hdiff : signedValue w a + (-signedValue w v - 1) + c.toNat = signedValue w a - signedValue w v - (!c).toNat := by
    omega
  rw [addBinary_v_iff, signedValue_complement w v hv, hdiff]

/-- The digits of a subtraction and their carry: the difference less the borrow (R182, U3). -/
theorem decimalDigits_sub_borrow {k a m n : Nat} {c : Bool} (ha : validBcd k a = true) (hm : validBcd k m = true)
    (hn : ∀ j, j < k → n / 16 ^ j % 16 = 15 - m / 16 ^ j % 16) :
    let r := decimalDigits true k a n c
    validBcd k r.1 = true ∧ r.1 < 16 ^ k ∧
      bcdValue k r.1 + 10 ^ k * r.2.toNat = bcdValue k a + 10 ^ k - (bcdValue k m + (!c).toNat) := by
  have hc : (!c).toNat + c.toNat = 1 := by cases c <;> rfl
  obtain ⟨hvalid, hlt, hsum⟩ := decimalDigits_sub k a m n c ha hm hn
  exact ⟨hvalid, hlt, by omega⟩

end Sys2Proof.Machine

namespace Sys2Proof

open Machine

/-- Settles O19: ADC takes the binary adder's answer. -/
theorem addBinary : Obligations.AddBinary := by
  intro i o s hform hd w v c sum
  have hadder : s.adder false o = Machine.addBinary w s.acc v (getFlag s.p .c) := by
    rw [State.adder_adc, hd]
    rfl
  obtain ⟨t, hexec, acc, n, z, hc, hv, flags, frame⟩ := exec_adc hform (hadder ▸ addBinary_lt _ _ _ _)
  rw [hadder] at acc n z hc hv
  exact ⟨t, _, hexec, addBinary_toNat _ _ _ _, acc, n, z, hc, hv ▸ addBinary_v_iff _ _ _ _, flags, frame⟩

/-- Settles O20: SBC takes the binary adder's answer to the complement of the operand. -/
theorem subtractBinary : Obligations.SubtractBinary := by
  intro i o s hform hd w v borrow
  have hv : v.toNat < 2 ^ widthBits w := s.operandValue_lt w o
  have hadder : s.adder true o = Machine.addBinary w s.acc (complement w v) (getFlag s.p .c) := by
    rw [State.adder_sbc, hd]
    rfl
  obtain ⟨t, hexec, acc, n, z, hc, hov, flags, frame⟩ := exec_sbc hform (hadder ▸ addBinary_lt _ _ _ _)
  rw [hadder] at acc n z hc hov
  exact ⟨t, _, hexec, addBinary_complement_toNat hv _ _, acc, n, z, hc.trans (addBinary_complement_carry hv _ _),
    hov ▸ addBinary_complement_v_iff hv _ _, flags, frame⟩

/-- Settles O21: ADC takes the decimal adder's answer, whose digits are those of the sum. -/
theorem addDecimal : Obligations.AddDecimal := by
  intro i o s hform hd w k v sum ha hv
  have hsums : SumsBcd w sum (s.adder false o) := by
    rw [State.adder_adc, hd]
    exact sumsBcd_addWithCarry ha hv (sumsBcd_addDecimal (decimalDigits_add k _ _ _ ha hv))
  obtain ⟨hvalid, hlt, hvalue, hcarry⟩ := hsums
  obtain ⟨t, hexec, acc, n, z, hc, -, flags, frame⟩ := exec_adc hform hlt
  exact ⟨t, _, hexec, hvalid, hlt, hvalue, acc, n, z, hc.trans hcarry, flags, frame⟩

/-- Settles O22: SBC takes the decimal adder's answer to the complement, whose digits are those of the difference. -/
theorem subtractDecimal : Obligations.SubtractDecimal := by
  intro i o s hform hd w k v taken ha hv
  have hlt16 : v.toNat < 2 ^ widthBits w := s.operandValue_lt w o
  have hbcd : bcdValue k v.toNat < 10 ^ k := bcd_lt k _ hv
  have hsums : SumsBcd w (bcdValue k s.acc.toNat + 10 ^ k - taken) (s.adder true o) := by
    rw [State.adder_sbc, hd]
    refine sumsBcd_addWithCarry ha ?_
      (sumsBcd_addDecimal (decimalDigits_sub_borrow ha hv (complement_digits w v)))
    exact (congrArg (fun m : Word => validBcd k m.toNat) (complement_complement w v hlt16)).trans hv
  obtain ⟨hvalid, hlt, hvalue, hcarry⟩ := hsums
  obtain ⟨t, hexec, acc, n, z, hc, -, flags, frame⟩ := exec_sbc hform hlt
  refine ⟨t, _, hexec, hvalid, hlt, hvalue, acc, n, z, (hc.trans hcarry).trans ?_, flags, frame⟩
  rw [decide_eq_decide]
  show 10 ^ k ≤ _ ↔ _
  omega

end Sys2Proof

namespace Sys2Proof.Machine

/-! ### The logical instructions (R184 to R186) -/

/-- AND, EOR and ORA change C, P and the bus record. -/
theorem State.logic_eq (s : State) (f : Word → Word → Word) (o : Operand) :
    s.logic f o = { s with
      c := insertAcc s.mw s.c (f s.acc (s.operandValue s.mw o))
      p := Machine.setNZ s.mw (f s.acc (s.operandValue s.mw o)) s.p
      bus := (s.noteLoad s.mw o).bus } := by
  rw [State.logic, State.noteLoad_eq]
  rfl

/-- A logical operation after PC has moved on: its result, its flags and its frame. -/
theorem State.logic_advance (s : State) (len : Nat) (f : Word → Word → Word) (o : Operand) :
    let r := f s.acc (s.operandValue s.mw o)
    let t := (s.advance len).logic f o
    AccWritten s.mw s.c t.c r ∧ SetsNZ s.p t.p s.mw r ∧
      t = { s with c := t.c, p := t.p, pc := s.pc + BitVec.ofNat 16 len, bus := t.bus } := by
  intro r t
  have ht : t = _ := (s.advance len).logic_eq f o
  rw [State.operandValue_advance, State.mw_advance, State.acc_advance] at ht
  rw [ht]
  exact ⟨accWritten_insertAcc _ _ _, setsNZ_setNZ _ _ _, rfl⟩

/-- Settles O23: each mnemonic is one bitwise operation on the accumulator, which below the width has the bits
of C. -/
theorem logic : Obligations.Logic := by
  intro i op o s hform hop v
  have hexec := exec_readForm i op o s hform
  obtain rfl | rfl | rfl := hop
  · refine ⟨_, s.acc &&& v, hexec, fun k hk => ?_, s.logic_advance _ (· &&& ·) o⟩
    rw [BitVec.getLsbD_and, State.getLsbD_acc, decide_eq_true hk, Bool.true_and, if_pos rfl]
  · refine ⟨_, s.acc ^^^ v, hexec, fun k hk => ?_, s.logic_advance _ (· ^^^ ·) o⟩
    rw [BitVec.getLsbD_xor, State.getLsbD_acc, decide_eq_true hk, Bool.true_and, if_neg nofun, if_pos rfl]
  · refine ⟨_, s.acc ||| v, hexec, fun k hk => ?_, s.logic_advance _ (· ||| ·) o⟩
    rw [BitVec.getLsbD_or, State.getLsbD_acc, decide_eq_true hk, Bool.true_and, if_neg nofun, if_neg nofun]

/-! ### The comparisons (R187 to R189) -/

theorem setsNZC_putFlag (p : Byte) (w : Width) (r : Word) (c : Bool) :
    SetsNZC p (putFlag (setNZ w r p) .c c) w r c := by
  obtain ⟨hn, hz, hrest⟩ := setsNZ_setNZ p w r
  refine ⟨?_, ?_, getFlag_putFlag _ _ _ _, fun f h1 h2 h3 => ?_⟩
  · exact (getFlag_putFlag _ .c .n _).trans hn
  · exact (getFlag_putFlag _ .c .z _).trans hz
  · rw [getFlag_putFlag, if_neg h3]
    exact hrest f h1 h2

/-- The comparisons change P and the bus record. -/
theorem State.compare_eq (s : State) (w : Width) (reg : Word) (o : Operand) :
    s.compare w reg o = { s with
      p := compareFlags w (trunc w reg) (s.operandValue w o) s.p
      bus := (s.noteLoad w o).bus } := by
  rw [State.compare, State.noteLoad_eq]

/-- A comparison as numbers: N and Z of the difference modulo 2^w, C of the unsigned order (U3). -/
theorem setsNZC_compareFlags (p : Byte) (w : Width) (reg v : Word) (hv : v.toNat < 2 ^ widthBits w) :
    let n := reg.toNat % 2 ^ widthBits w
    SetsNZC p (compareFlags w (trunc w reg) v p) w
      (BitVec.ofNat 16 ((n + 2 ^ widthBits w - v.toNat) % 2 ^ widthBits w)) (decide (v.toNat ≤ n)) := by
  intro n
  rw [compareFlags, trunc_sub w _ v hv, trunc_toNat, Nat.mod_mod]
  exact setsNZC_putFlag _ _ _ _

/-- A comparison after PC has moved on: its flags and its frame. -/
theorem State.compare_advance (s : State) (len : Nat) (w : Width) (reg : Word) (o : Operand) :
    let v := (s.operandValue w o).toNat
    let n := reg.toNat % 2 ^ widthBits w
    let t := (s.advance len).compare w reg o
    SetsNZC s.p t.p w (BitVec.ofNat 16 ((n + 2 ^ widthBits w - v) % 2 ^ widthBits w)) (decide (v ≤ n)) ∧
      t = { s with p := t.p, pc := s.pc + BitVec.ofNat 16 len, bus := t.bus } := by
  intro v n t
  have ht : t = _ := (s.advance len).compare_eq w reg o
  rw [State.operandValue_advance] at ht
  rw [ht]
  exact ⟨setsNZC_compareFlags _ _ _ _ (s.operandValue_lt w o), rfl⟩

/-- Settles O24: each mnemonic is one comparison, of its own register at its own width. -/
theorem compare : Obligations.Compare := by
  intro i op o s hform hop w reg v
  have hexec := exec_readForm i op o s hform
  obtain rfl | rfl | rfl := hop
  · exact ⟨_, hexec, s.compare_advance _ s.mw s.c o⟩
  · exact ⟨_, hexec, s.compare_advance _ s.xw s.x o⟩
  · exact ⟨_, hexec, s.compare_advance _ s.xw s.y o⟩

/-! ### BIT (R190) -/

theorem KeepsFlags.mono {p q : Byte} {l l' : List Flag} (h : KeepsFlags p q l) (hl : l ⊆ l') : KeepsFlags p q l' :=
  fun f hf => h f fun hm => hf (hl hm)

theorem KeepsFlags.trans {p q r : Byte} {l l' : List Flag} (h : KeepsFlags p q l) (g : KeepsFlags q r l') :
    KeepsFlags p r (l ++ l') := by
  intro f hf
  rw [List.mem_append, not_or] at hf
  exact (g f hf.2).trans (h f hf.1)

/-- The accumulator has no bits above its width, nor has what is masked with it. -/
theorem State.trunc_acc_and (s : State) (v : Word) : trunc s.mw (s.acc &&& v) = s.acc &&& v := by
  apply BitVec.eq_of_getLsbD_eq
  intro k _
  rw [getLsbD_trunc, BitVec.getLsbD_and, State.getLsbD_acc, ← Bool.and_assoc, ← Bool.and_assoc, Bool.and_self]

/-- Z of BIT, TSB and TRB: no bit of the operand is set in the accumulator. -/
theorem State.acc_and_beq_zero_iff (s : State) (v : Word) :
    (s.acc &&& v == 0#16) = true ↔ ∀ k, k < widthBits s.mw → (s.c.getLsbD k && v.getLsbD k) = false := by
  rw [← State.trunc_acc_and, trunc_beq_zero_iff]
  refine forall₂_congr fun k hk => ?_
  rw [BitVec.getLsbD_and, State.getLsbD_acc, decide_eq_true hk, Bool.true_and]

theorem getFlag_bitZero_z (acc v : Word) (p : Byte) : getFlag (bitZero acc v p) .z = (acc &&& v == 0#16) :=
  getFlag_putFlag _ _ _ _

theorem keepsFlags_bitZero (acc v : Word) (p : Byte) : KeepsFlags p (bitZero acc v p) [.z] :=
  keepsFlags_putFlag _ _ _

/-- BIT on memory changes P and the bus record. -/
theorem State.bitMem_eq (s : State) (m : MemMode) :
    s.bitMem m = { s with
      p := bitZero s.acc (s.operandValue s.mw (.mem m)) (putFlag (putFlag s.p
        .n (topBit s.mw (s.operandValue s.mw (.mem m)))) .v (nextBit s.mw (s.operandValue s.mw (.mem m))))
      bus := (s.noteLoad s.mw (.mem m)).bus } := by
  rw [State.bitMem, State.noteLoad_eq]

/-- Settles O25: Z in both forms by the accumulator's bits, N and V in the memory forms only. -/
theorem bitTest : Obligations.BitTest := by
  intro i o s hform w v
  have hexec := exec_readForm i .bit o s hform
  cases o with
  | imm q =>
    have hkeeps : KeepsFlags s.p (bitZero s.acc v s.p) [.z] := keepsFlags_bitZero _ _ _
    refine ⟨_, hexec, ?_, nofun, fun _ _ => hkeeps, hkeeps.mono (by decide), rfl⟩
    exact getFlag_bitZero_z s.acc v s.p ▸ s.acc_and_beq_zero_iff v
  | mem m =>
    replace hexec : exec i s = .next ((s.advance (instrLength i)).bitMem m) := hexec
    rw [State.bitMem_eq, State.operandValue_advance, State.mw_advance, State.acc_advance] at hexec
    have hkeeps (p : Byte) : KeepsFlags p
        (bitZero s.acc v (putFlag (putFlag p .n (topBit w v)) .v (nextBit w v))) [.n, .v, .z] :=
      ((keepsFlags_putFlag _ _ _).trans (keepsFlags_putFlag _ _ _)).trans (keepsFlags_bitZero _ _ _)
    refine ⟨_, hexec, ?_, fun m' _ => ⟨?_, ?_⟩, nofun, hkeeps s.p, rfl⟩
    · exact getFlag_bitZero_z s.acc v _ ▸ s.acc_and_beq_zero_iff v
    · rw [keepsFlags_bitZero _ _ _ .n (by decide), getFlag_putFlag, getFlag_putFlag]
      rfl
    · rw [keepsFlags_bitZero _ _ _ .v (by decide), getFlag_putFlag]
      rfl

/-! ### Read-modify-write (R180, R127) -/

/-- A read-modify-write of memory in each form: it stores what its operation answers, and P is as the operation
leaves it. -/
theorem exec_modify {i : Instr} {op : ModifyOp} {m : MemMode} {s : State} (h : modifyForm i = some (op, m)) :
    let res := modifyOp s.acc op s.mw (s.operandValue s.mw (.mem m)) s.p
    ∃ t, exec i s = .next t ∧ Stores s t s.mw m res.1 ∧ t.p = res.2 ∧
      t = { s with p := t.p, pc := s.pc + BitVec.ofNat 16 (instrLength i), mem := t.mem, bus := t.bus } := by
  intro res
  let t := (s.advance (instrLength i)).rmw m (modifyOp s.acc op)
  have hstores := (State.rmw_stores (s.advance (instrLength i)) m (modifyOp s.acc op)).of_advance
  have ht : t = _ := State.rmw_eq (s.advance (instrLength i)) m (modifyOp s.acc op)
  rw [State.mw_advance, State.operandValue_advance] at hstores ht
  exact ⟨t, exec_modifyForm i op m s h, hstores, congrArg State.p ht, congrArg State.p ht ▸ ht⟩

/-- An operation on the accumulator in mode `A`. -/
theorem exec_acc {i : Instr} {op : ModifyOp} {s : State} (h : accForm i = some op) :
    let res := modifyOp s.acc op s.mw s.acc s.p
    ∃ t, exec i s = .next t ∧ AccWritten s.mw s.c t.c res.1 ∧ t.p = res.2 ∧
      t = { s with c := t.c, p := t.p, pc := s.pc + 1 } :=
  ⟨_, exec_accForm i op s h, accWritten_insertAcc _ _ _, rfl, rfl⟩

/-! ### INC and DEC (R191, R192) -/

/-- INC and DEC as numbers: one more or one less modulo 2^w, N and Z of the result. -/
theorem modifyOp_step {op : ModifyOp} (hop : op = .inc ∨ op = .dec) (acc : Word) (w : Width) (v : Word) (p : Byte)
    (hv : v.toNat < 2 ^ widthBits w) :
    let r := BitVec.ofNat 16
      ((if op = .inc then v.toNat + 1 else v.toNat + 2 ^ widthBits w - 1) % 2 ^ widthBits w)
    (modifyOp acc op w v p).1 = r ∧ SetsNZ p (modifyOp acc op w v p).2 w r := by
  obtain rfl | rfl := hop
  · have hr := trunc_add_one w v
    rw [Nat.mod_eq_of_lt hv] at hr
    exact ⟨hr, hr ▸ setsNZ_setNZ p w (trunc w (v + 1))⟩
  · have hr := trunc_sub_one w v
    rw [Nat.mod_eq_of_lt hv] at hr
    exact ⟨hr, hr ▸ setsNZ_setNZ p w (trunc w (v - 1))⟩

/-- Settles O26: in memory and on the accumulator the same operation. -/
theorem incrementDecrement : Obligations.IncrementDecrement := by
  intro i op s hop w result
  constructor
  · intro m hform
    obtain ⟨t, hexec, hstores, hp, hframe⟩ := exec_modify (s := s) hform
    obtain ⟨hr, hflags⟩ := modifyOp_step hop s.acc w _ s.p (s.operandValue_lt w (.mem m))
    rw [hr] at hstores
    exact ⟨t, hexec, hstores, hp ▸ hflags, hframe⟩
  · intro hform
    obtain ⟨t, hexec, hacc, hp, hframe⟩ := exec_acc (s := s) hform
    obtain ⟨hr, hflags⟩ := modifyOp_step hop s.acc w _ s.p s.acc_lt
    rw [hr] at hacc
    exact ⟨t, hexec, hacc, hp ▸ hflags, hframe⟩

/-! ### Shifts and rotates (R197 to R200) -/

/-- One bit left at a width. -/
theorem trunc_shiftLeft_one (w : Width) (v : Word) :
    trunc w (v <<< 1) = BitVec.ofNat 16 (2 * v.toNat % 2 ^ widthBits w) := by
  apply eq_ofNat_of_toNat
  rw [trunc_toNat, BitVec.toNat_shiftLeft, Nat.mod_mod_of_dvd _ (two_pow_widthBits_dvd w), Nat.shiftLeft_eq,
    pow_one, mul_comm]

/-- One bit right at a width. -/
theorem trunc_shiftRight_one {w : Width} {v : Word} (hv : v.toNat < 2 ^ widthBits w) :
    trunc w v >>> 1 = BitVec.ofNat 16 (v.toNat / 2) := by
  apply eq_ofNat_of_toNat
  rw [BitVec.toNat_ushiftRight, trunc_toNat, Nat.mod_eq_of_lt hv, Nat.shiftRight_eq_div_pow, pow_one]

theorem two_pow_widthBits (w : Width) : 2 ^ widthBits w = 2 * 2 ^ (widthBits w - 1) := by cases w <;> rfl

/-- The old C goes to bit 0, which the shift has cleared (U16). -/
theorem rotateLeft_eq (w : Width) (v : Word) (c : Bool) :
    trunc w (v <<< 1) ||| BitVec.ofNat 16 c.toNat =
      BitVec.ofNat 16 (2 * v.toNat % 2 ^ widthBits w + c.toNat) := by
  rw [trunc_shiftLeft_one, ← BitVec.ofNat_or, two_pow_widthBits, Nat.mul_mod_mul_left]
  exact congrArg _ (Nat.two_pow_add_eq_or_of_lt (i := 1) c.toNat_lt _).symm

/-- The old C goes to the top bit, which the shift has cleared (U16). -/
theorem rotateRight_eq {w : Width} {v : Word} (hv : v.toNat < 2 ^ widthBits w) (c : Bool) :
    (trunc w v >>> 1) ||| (BitVec.ofNat 16 c.toNat <<< (widthBits w - 1)) =
      BitVec.ofNat 16 (v.toNat / 2 + c.toNat * 2 ^ (widthBits w - 1)) := by
  have hc : BitVec.ofNat 16 c.toNat <<< (widthBits w - 1) = BitVec.ofNat 16 (2 ^ (widthBits w - 1) * c.toNat) := by
    cases w <;> cases c <;> rfl
  have hhalf : v.toNat / 2 < 2 ^ (widthBits w - 1) := by
    rw [two_pow_widthBits] at hv
    omega
  rw [trunc_shiftRight_one hv, hc, ← BitVec.ofNat_or, Nat.or_comm, ← Nat.two_pow_add_eq_or_of_lt hhalf, mul_comm,
    add_comm]

/-- The shifts and rotates as numbers: the result with the bit shifted in, the bit shifted out in C, N and Z of the
result. -/
theorem modifyOp_shift {op : ModifyOp} (hop : op = .asl ∨ op = .lsr ∨ op = .rol ∨ op = .ror) (acc : Word)
    (w : Width) (v : Word) (p : Byte) (hv : v.toNat < 2 ^ widthBits w) :
    let c := (getFlag p .c).toNat
    let r := BitVec.ofNat 16
      (if op = .asl then 2 * v.toNat % 2 ^ widthBits w
       else if op = .lsr then v.toNat / 2
       else if op = .rol then 2 * v.toNat % 2 ^ widthBits w + c
       else v.toNat / 2 + c * 2 ^ (widthBits w - 1))
    let out := if op = .asl ∨ op = .rol then v.toNat.testBit (widthBits w - 1) else v.toNat.testBit 0
    (modifyOp acc op w v p).1 = r ∧ SetsNZC p (modifyOp acc op w v p).2 w r out := by
  have hflags (r r' : Word) (out : Bool) (h : r = r') : SetsNZC p (putFlag (setNZ w r p) .c out) w r' out :=
    h ▸ setsNZC_putFlag p w r out
  obtain rfl | rfl | rfl | rfl := hop
  · have hr := trunc_shiftLeft_one w v
    exact ⟨hr, hflags _ _ _ hr⟩
  · have hr := trunc_shiftRight_one hv
    exact ⟨hr, hflags _ _ _ hr⟩
  · have hr := rotateLeft_eq w v (getFlag p .c)
    exact ⟨hr, hflags _ _ _ hr⟩
  · have hr := rotateRight_eq hv (getFlag p .c)
    exact ⟨hr, hflags _ _ _ hr⟩

/-- Settles O27: in memory and on the accumulator the same operation. -/
theorem shiftsAndRotates : Obligations.ShiftsAndRotates := by
  intro i op s hop w n c result out
  constructor
  · intro m hform old
    obtain ⟨t, hexec, hstores, hp, hframe⟩ := exec_modify (s := s) hform
    obtain ⟨hr, hflags⟩ := modifyOp_shift hop s.acc w _ s.p (s.operandValue_lt w (.mem m))
    rw [hr] at hstores
    exact ⟨t, hexec, hstores, hp ▸ hflags, hframe⟩
  · intro hform old
    obtain ⟨t, hexec, hacc, hp, hframe⟩ := exec_acc (s := s) hform
    obtain ⟨hr, hflags⟩ := modifyOp_shift hop s.acc w _ s.p s.acc_lt
    rw [hr] at hacc
    exact ⟨t, hexec, hacc, hp ▸ hflags, hframe⟩

/-! ### TSB and TRB (R201, R202) -/

/-- The bits that TSB and TRB leave in memory. -/
theorem State.getLsbD_modifyOp_test (s : State) {op : ModifyOp} (hop : op = .tsb ∨ op = .trb) (v : Word) (p : Byte)
    {k : Nat} (hk : k < widthBits s.mw) :
    (modifyOp s.acc op s.mw v p).1.getLsbD k =
      if op = .tsb then v.getLsbD k || s.c.getLsbD k else v.getLsbD k && !s.c.getLsbD k := by
  have hacc : s.acc.getLsbD k = s.c.getLsbD k := by rw [State.getLsbD_acc, decide_eq_true hk, Bool.true_and]
  have hk16 : k < 16 := lt_of_lt_of_le hk (by cases s.mw <;> decide)
  obtain rfl | rfl := hop
  · rw [if_pos rfl, ← hacc]
    exact (getLsbD_trunc s.mw (v ||| s.acc) k).trans (by rw [decide_eq_true hk, Bool.true_and, BitVec.getLsbD_or])
  · rw [if_neg nofun, ← hacc]
    exact (getLsbD_trunc s.mw (v &&& ~~~s.acc) k).trans (by
      rw [decide_eq_true hk, Bool.true_and, BitVec.getLsbD_and, BitVec.getLsbD_not, decide_eq_true hk16,
        Bool.true_and])

/-- TSB and TRB leave in P what BIT immediate leaves (U4). -/
theorem State.modifyOp_test_p (s : State) {op : ModifyOp} (hop : op = .tsb ∨ op = .trb) (v : Word) (p : Byte) :
    (modifyOp s.acc op s.mw v p).2 = bitZero s.acc v p := by
  rw [bitZero, ← State.trunc_acc_and]
  obtain rfl | rfl := hop <;> rfl

/-- Settles O28: the bits and Z of the operation that the read-modify-write stores. -/
theorem testAndSet : Obligations.TestAndSet := by
  intro i op m s hform hop w old
  obtain ⟨t, hexec, hstores, hp, hframe⟩ := exec_modify (s := s) hform
  rw [State.modifyOp_test_p s hop] at hp
  refine ⟨t, _, hexec, fun k => s.getLsbD_modifyOp_test hop old s.p, hstores, ?_, ?_, hframe⟩
  · rw [hp, getFlag_bitZero_z]
    exact s.acc_and_beq_zero_iff old
  · rw [hp]
    exact keepsFlags_bitZero _ _ _

/-! ### INX, INY, DEX and DEY (R193 to R196) -/

/-- A step of X after PC has moved on. -/
theorem State.stepX_advance (s : State) (len : Nat) (k : Word) :
    let t := (s.advance len).stepX k
    t.x = trunc s.xw (s.x + k) ∧ SetsNZ s.p t.p s.xw t.x ∧
      t = { s with x := t.x, p := t.p, pc := s.pc + BitVec.ofNat 16 len } := by
  have hx : ((s.advance len).stepX k).x = trunc s.xw (s.x + k) := trunc_trunc s.xw (s.x + k)
  exact ⟨hx, hx ▸ setsNZ_setNZ s.p s.xw _, rfl⟩

/-- A step of Y after PC has moved on. -/
theorem State.stepY_advance (s : State) (len : Nat) (k : Word) :
    let t := (s.advance len).stepY k
    t.y = trunc s.xw (s.y + k) ∧ SetsNZ s.p t.p s.xw t.y ∧
      t = { s with y := t.y, p := t.p, pc := s.pc + BitVec.ofNat 16 len } := by
  have hy : ((s.advance len).stepY k).y = trunc s.xw (s.y + k) := trunc_trunc s.xw (s.y + k)
  exact ⟨hy, hy ▸ setsNZ_setNZ s.p s.xw _, rfl⟩

/-- Settles O30: each instruction is one step of its register, by 1 or by -1 at the index width. -/
theorem stepIndex : Obligations.StepIndex := by
  intro s n up down
  have hup (v : Word) : trunc s.xw (v + 1) = up v := trunc_add_one s.xw v
  have hdown (v : Word) : trunc s.xw (v + -1) = down v := by
    rw [← BitVec.sub_eq_add_neg]
    exact trunc_sub_one s.xw v
  refine ⟨?_, ?_, ?_, ?_⟩
  · exact ⟨_, rfl, hup s.x ▸ s.stepX_advance 1 1⟩
  · exact ⟨_, rfl, hup s.y ▸ s.stepY_advance 1 1⟩
  · exact ⟨_, rfl, hdown s.x ▸ s.stepX_advance 1 (-1)⟩
  · exact ⟨_, rfl, hdown s.y ▸ s.stepY_advance 1 (-1)⟩

end Sys2Proof.Machine


/-!
PROOFS of the transfer statements (43_transfer.md): the transfers to an index register (O31), those to the accumulator
and XBA (O32), those to the stack pointer and to the Direct register (O33).
-/

namespace Sys2Proof.Machine

/-! ### The operations of the transfers (R230) -/

/-- A transfer to X after PC has moved on (R231, R236, R237): the value at the index width, the flags, the frame. -/
theorem State.toX_advance (s : State) (len : Nat) (v : Word) :
    let t := (s.advance len).toX v
    IndexWritten s.xw t.x v ∧ SetsNZ s.p t.p s.xw v ∧
      t = { s with x := t.x, p := t.p, pc := s.pc + BitVec.ofNat 16 len } :=
  ⟨indexWritten_trunc s.xw v, setsNZ_setNZ s.p s.xw v, rfl⟩

/-- A transfer to Y after PC has moved on (R232, R235): the value at the index width, the flags, the frame. -/
theorem State.toY_advance (s : State) (len : Nat) (v : Word) :
    let t := (s.advance len).toY v
    IndexWritten s.xw t.y v ∧ SetsNZ s.p t.p s.xw v ∧
      t = { s with y := t.y, p := t.p, pc := s.pc + BitVec.ofNat 16 len } :=
  ⟨indexWritten_trunc s.xw v, setsNZ_setNZ s.p s.xw v, rfl⟩

/-- A transfer to the accumulator after PC has moved on: `toAcc` at the width of M (R233, R234), `toC` at 16 bits
whatever M is (R240, R242). -/
theorem State.setAcc_setNZ_advance (s : State) (len : Nat) (w : Width) (v : Word) :
    let t := ((s.advance len).setAcc w v).setNZ w v
    AccWritten w s.c t.c v ∧ SetsNZ s.p t.p w v ∧
      t = { s with c := t.c, p := t.p, pc := s.pc + BitVec.ofNat 16 len } :=
  ⟨accWritten_insertAcc w s.c v, setsNZ_setNZ s.p w v, rfl⟩

/-- A transfer to D after PC has moved on (R239): all of D, the flags at 16 bits, the frame. -/
theorem State.toD_advance (s : State) (len : Nat) (v : Word) :
    let t := (s.advance len).toD v
    t.d = v ∧ SetsNZ s.p t.p .w16 v ∧ t = { s with d := t.d, p := t.p, pc := s.pc + BitVec.ofNat 16 len } :=
  ⟨rfl, setsNZ_setNZ s.p .w16 v, rfl⟩

/-- A transfer to S after PC has moved on (R238, R241): no flag changes, in Emulation mode SH is 01. -/
theorem State.toS_advance (s : State) (len : Nat) (v : Word) :
    (s.advance len).toS v =
      { s with sp := if s.e then mkWord 0x01 (loByte v) else v, pc := s.pc + BitVec.ofNat 16 len } := rfl

/-! ### XBA (R243) -/

/-- At 8 bits a word counts as its low byte. -/
theorem trunc_w8_mkWord (hi lo : Byte) : trunc .w8 (mkWord hi lo) = BitVec.ofNat 16 lo.toNat := by
  apply eq_ofNat_of_toNat
  rw [trunc_w8, loByte_mkWord, mkWord_toNat]
  simp

/-- N and Z at 8 bits see only the low byte of a word (U5). -/
theorem setNZ_w8_mkWord (p hi lo : Byte) : setNZ .w8 (mkWord hi lo) p = setNZ .w8 (BitVec.ofNat 16 lo.toNat) p := by
  rw [← setNZ_trunc, trunc_w8_mkWord]

/-- XBA after PC has moved on: the halves of C exchanged, N and Z from the new A, the frame. -/
theorem State.exchangeBA_advance (s : State) (len : Nat) :
    let t := (s.advance len).exchangeBA
    hiByte t.c = loByte s.c ∧ loByte t.c = hiByte s.c ∧
      SetsNZ s.p t.p .w8 (BitVec.ofNat 16 (hiByte s.c).toNat) ∧
      t = { s with c := t.c, p := t.p, pc := s.pc + BitVec.ofNat 16 len } := by
  intro t
  have hc : t.c = mkWord (loByte s.c) (hiByte s.c) := rfl
  have hp : t.p = Machine.setNZ .w8 (BitVec.ofNat 16 (hiByte s.c).toNat) s.p := setNZ_w8_mkWord s.p _ _
  refine ⟨?_, ?_, ?_, rfl⟩
  · rw [hc, hiByte_mkWord]
  · rw [hc, loByte_mkWord]
  · rw [hp]
    exact setsNZ_setNZ s.p .w8 _

/-! ### The statements -/

/-- Settles O31: each instruction is one transfer to its index register, from its own source. -/
theorem transfersToIndex : Obligations.TransfersToIndex := by
  intro s toX toY
  refine ⟨?tax, ?tay, ?txy, ?tyx, ?tsx⟩
  case tax => exact ⟨rfl, _, rfl, s.toX_advance 1 s.c⟩
  case tay => exact ⟨rfl, _, rfl, s.toY_advance 1 s.c⟩
  case txy => exact ⟨rfl, _, rfl, s.toY_advance 1 s.x⟩
  case tyx => exact ⟨rfl, _, rfl, s.toX_advance 1 s.y⟩
  case tsx => exact ⟨rfl, _, rfl, s.toX_advance 1 s.sp⟩

/-- Settles O32: TXA and TYA write at the width of M, TDC and TSC write all of C, XBA exchanges its halves. -/
theorem transfersToAccumulator : Obligations.TransfersToAccumulator := by
  intro s toAcc
  refine ⟨?txa, ?tya, ?tdc, ?tsc, ?xba⟩
  case txa => exact ⟨_, rfl, s.setAcc_setNZ_advance 1 s.mw s.x⟩
  case tya => exact ⟨_, rfl, s.setAcc_setNZ_advance 1 s.mw s.y⟩
  case tdc => exact ⟨_, rfl, s.setAcc_setNZ_advance 1 .w16 s.d⟩
  case tsc => exact ⟨_, rfl, s.setAcc_setNZ_advance 1 .w16 s.sp⟩
  case xba => exact ⟨_, rfl, s.exchangeBA_advance 1⟩

/-- Settles O33: TXS and TCS are one transfer to S, where Emulation mode forces SH, and TCD is one to D. -/
theorem transfersToStackAndDirect : Obligations.TransfersToStackAndDirect := by
  intro s toS
  refine ⟨?txs, ?tcs, ?tcd⟩
  case txs => exact congrArg Host.Outcome.next (s.toS_advance 1 s.x)
  case tcs => exact congrArg Host.Outcome.next (s.toS_advance 1 s.c)
  case tcd => exact ⟨_, rfl, s.toD_advance 1 s.c⟩

end Sys2Proof.Machine

/-!
PROOFS of the stack statements (44_stack.md, and R337 to R340 of 46_status_flags.md): the pushes of registers (O34),
the pushes of words with 16-bit stack arithmetic (O35), the pulls (O36), and the writes of the whole of P (O37).
-/

namespace Sys2Proof.Machine

/-! ### Plain pushes (R260, R262) -/

/-- The bytes of a push at a width, in the order in which they are pushed (R262). -/
def pushedBytes (w : Width) (v : Word) : List Byte :=
  if w = .w8 then [loByte v] else [hiByte v, loByte v]

/-- A push of one byte after PC has moved on (R268 to R270). -/
theorem State.push8_advance (s : State) (len : Nat) (b : Byte) :
    let t := (s.advance len).push8 b
    Pushes s t s.sDown [b] ∧
      t = { s with sp := s.sDown 1, pc := s.pc + BitVec.ofNat 16 len, mem := t.mem, bus := t.bus } :=
  ⟨Pushes.plain s _ _ (by simp) rfl rfl rfl, rfl⟩

/-- A push of a register at its width after PC has moved on (R265 to R267). -/
theorem State.pushW_advance (s : State) (len : Nat) (w : Width) (v : Word) :
    let t := (s.advance len).pushW w v
    Pushes s t s.sDown (pushedBytes w v) ∧
      t = { s with
        sp := s.sDown (pushedBytes w v).length, pc := s.pc + BitVec.ofNat 16 len, mem := t.mem, bus := t.bus } := by
  cases w with
  | w8 => exact s.push8_advance len (loByte v)
  | w16 => exact ⟨Pushes.plain s _ _ (by simp [pushedBytes]) rfl rfl rfl, rfl⟩

/-- Settles O34: PHA, PHX and PHY push at the width of their register, PHP, PHB and PHK push one byte. -/
theorem pushRegisters : Obligations.PushRegisters := by
  intro s pushes wide
  refine ⟨?pha, ?phx, ?phy, ?php, ?phb, ?phk⟩
  case pha => exact ⟨_, rfl, s.pushW_advance 1 s.mw s.c⟩
  case phx => exact ⟨_, rfl, s.pushW_advance 1 s.xw s.x⟩
  case phy => exact ⟨_, rfl, s.pushW_advance 1 s.xw s.y⟩
  case php => exact ⟨_, rfl, s.push8_advance 1 s.p⟩
  case phb => exact ⟨_, rfl, s.push8_advance 1 s.dbr⟩
  case phk => exact ⟨_, rfl, s.push8_advance 1 s.pbr⟩

/-! ### Pushes with 16-bit stack arithmetic (R263, R264) -/

/-- A push of a word once the instruction has moved PC and made its reads, which leave the stack alone. -/
theorem State.pushWordN_fetched (s : State) (pc : Word) (bus : List BusAccess) (v : Word) :
    let t := State.pushWordN { s with pc := pc, bus := bus } v
    Pushes s t (fun k => s.sp - BitVec.ofNat 16 k) [hiByte v, loByte v] ∧
      t = { s with sp := fixedSp s.e (s.sp - 2), pc := pc, mem := t.mem, bus := t.bus } :=
  ⟨Pushes.wide s _ _ (by simp) rfl rfl rfl, State.pushWordN_eq _ v⟩

/-- The word of a direct address inside bank 0, without page wrap (R279). -/
theorem State.peek16_read_direct (s : State) (off : Byte) :
    s.peek16 .read .bank (mkAddr 0x00 (s.dirAddr off 0)) =
      mkWord (s.stackByte (offOf (s.ea (.dir off)) + 1)) (s.stackByte (offOf (s.ea (.dir off)))) := by
  rw [State.ea_direct (.inl ⟨rfl, rfl⟩), offOf_mkAddr]
  exact s.peek16_bank .read 0x00 _

/-- Settles O35: each instruction is one push of a word, and PEI reads that word before it pushes. -/
theorem pushWords : Obligations.PushWords := by
  intro s v off pushes a
  refine ⟨?phd, ?pea, ?pei, ?per⟩
  case phd => exact ⟨_, rfl, s.pushWordN_fetched _ _ s.d⟩
  case pea => exact ⟨_, rfl, s.pushWordN_fetched _ _ v⟩
  case pei =>
    rw [← s.peek16_read_direct off]
    exact ⟨_, rfl, s.pushWordN_fetched _ _ _⟩
  case per => exact ⟨_, rfl, s.pushWordN_fetched _ _ (s.pc + 3 + v)⟩

/-! ### Pulls (R261 to R263) -/

/-- The value of a pull at a width: the low byte is pulled first (R262). -/
theorem State.pulledW_eq (s : State) (w : Width) :
    s.pulledW w =
      if w = .w8 then mkWord 0x00 (s.stackByte (s.sUp 1))
      else mkWord (s.stackByte (s.sUp 2)) (s.stackByte (s.sUp 1)) := by
  cases w <;> rfl

/-- A pull at a width changes S and the bus record. -/
theorem State.pullW_eq (s : State) (w : Width) :
    s.pullW w = { s with sp := s.sUp (widthBytes w), bus := (s.pullW w).bus } := by
  cases w <;> rfl

/-- What a pull answers does not depend on the program counter. -/
@[simp] theorem State.pulledW_advance (s : State) (n : Nat) : (s.advance n).pulledW = s.pulledW := by
  funext w
  rw [State.pulledW_eq, State.pulledW_eq, State.sUp_advance, State.stackByte_advance]

/-- PLA changes C, S, P and the bus record (R272). -/
theorem State.pla_eq (s : State) :
    s.pla = { s with
      c := insertAcc s.mw s.c (s.pulledW s.mw)
      sp := s.sUp (widthBytes s.mw)
      p := Machine.setNZ s.mw (s.pulledW s.mw) s.p
      bus := (s.pullW s.mw).bus } := by
  rw [State.pla, State.pullW_eq]
  rfl

/-- PLX changes X, S, P and the bus record (R273). -/
theorem State.plx_eq (s : State) :
    s.plx = { s with
      x := trunc s.xw (s.pulledW s.xw)
      sp := s.sUp (widthBytes s.xw)
      p := Machine.setNZ s.xw (s.pulledW s.xw) s.p
      bus := (s.pullW s.xw).bus } := by
  rw [State.plx, State.pullW_eq]
  rfl

/-- PLY changes Y, S, P and the bus record (R274). -/
theorem State.ply_eq (s : State) :
    s.ply = { s with
      y := trunc s.xw (s.pulledW s.xw)
      sp := s.sUp (widthBytes s.xw)
      p := Machine.setNZ s.xw (s.pulledW s.xw) s.p
      bus := (s.pullW s.xw).bus } := by
  rw [State.ply, State.pullW_eq]
  rfl

/-- PLB changes DBR, S, P and the bus record (R276). -/
theorem State.plb_eq (s : State) :
    s.plb = { s with
      dbr := s.stackByte (s.sUp 1)
      sp := s.sUp 1
      p := Machine.setNZ .w8 (s.pulledW .w8) s.p
      bus := s.pull8.bus } := rfl

/-- Two steps of S are one step by 2. -/
theorem add_one_add_one (o : Word) : o + 1 + 1 = o + 2 := BitVec.add_assoc o 1 1

/-- What PLD loads: the two bytes above S, in 16-bit stack arithmetic (R263, R277). -/
theorem State.pld_d (s : State) :
    s.pld.d = mkWord (s.stackByte (s.sp + 2)) (s.stackByte (s.sp + 1)) := by
  rw [← add_one_add_one]
  rfl

/-- Settles O36: each instruction is one pull after PC has moved on, which changes nothing a pull answers. -/
theorem pullRegisters : Obligations.PullRegisters := by
  intro s value
  have hvalue (w : Width) : s.pulledW w = value w := s.pulledW_eq w
  refine ⟨?pla, ?plx, ?ply, ?plb, ?pld⟩
  case pla =>
    have hexec : exec .pla s = .next (s.advance 1).pla := rfl
    rw [State.pla_eq, State.pulledW_advance, State.sUp_advance, State.mw_advance, hvalue] at hexec
    exact ⟨_, hexec, accWritten_insertAcc _ _ _, setsNZ_setNZ _ _ _, rfl⟩
  case plx =>
    have hexec : exec .plx s = .next (s.advance 1).plx := rfl
    rw [State.plx_eq, State.pulledW_advance, State.sUp_advance, State.xw_advance, hvalue] at hexec
    exact ⟨_, hexec, indexWritten_trunc _ _, setsNZ_setNZ _ _ _, rfl⟩
  case ply =>
    have hexec : exec .ply s = .next (s.advance 1).ply := rfl
    rw [State.ply_eq, State.pulledW_advance, State.sUp_advance, State.xw_advance, hvalue] at hexec
    exact ⟨_, hexec, indexWritten_trunc _ _, setsNZ_setNZ _ _ _, rfl⟩
  case plb =>
    have hexec : exec .plb s = .next (s.advance 1).plb := rfl
    rw [State.plb_eq, State.pulledW_advance, State.sUp_advance, State.stackByte_advance, hvalue] at hexec
    exact ⟨_, hexec, rfl, setsNZ_setNZ _ _ _, rfl⟩
  case pld =>
    have hexec : exec .pld s = .next (s.advance 1).pld := rfl
    rw [State.pld_eq, State.pld_d, add_one_add_one] at hexec
    exact ⟨_, hexec, setsNZ_setNZ _ _ _, rfl⟩

/-! ### Writes of the whole of P (R275, R337 to R340) -/

/-- PLP pulls one byte, then writes P (R275). -/
theorem State.plp_eq (s : State) :
    s.plp = State.loadP { s with sp := s.sUp 1, bus := s.pull8.bus } (s.stackByte (s.sUp 1)) := rfl

/-- Settles O37: each instruction is one write of the whole of P, which normalises it whatever the byte is. -/
theorem statusWrites : Obligations.StatusWrites := by
  intro s v writes
  refine ⟨?plp, ?rep, ?sep⟩
  case plp =>
    have hexec : exec .plp s = .next (s.advance 1).plp := rfl
    rw [State.plp_eq, State.sUp_advance, State.stackByte_advance] at hexec
    exact ⟨_, hexec, State.loadP_eq _ _⟩
  case rep => exact ⟨_, rfl, State.loadP_eq (s.advance 2) (s.p &&& ~~~v)⟩
  case sep => exact ⟨_, rfl, State.loadP_eq (s.advance 2) (s.p ||| v)⟩

end Sys2Proof.Machine

/-!
PROOFS of the control-flow statements (45_control_flow.md): the branches (O38), the jumps (O39), the calls (O40), the
returns (O41), and that in Native mode a return finds its caller (O42).
-/

namespace Sys2Proof.Machine

/-! ### Branches (R290, R300) -/

/-- A word plus a sign-extended byte is the sum of the numbers, inside the bank (R290). -/
theorem toNat_add_sext16 (w : Word) (b : Byte) : ((w + sext16 b).toNat : Int) = (w.toNat + b.toInt) % 65536 := by
  have hext : (sext16 b).toInt = b.toInt := BitVec.toInt_signExtend_of_le (by decide)
  rw [BitVec.toNat_add, ← hext, BitVec.toInt_eq_msb_cond]
  split <;> omega

/-- A branch changes PC only, and that only where it is taken (R290). -/
theorem State.branch_eq (s : State) (taken : Bool) (disp : Byte) :
    s.branch taken disp = { s with pc := if taken then s.pc + sext16 disp else s.pc } := by
  cases taken <;> rfl

/-- A relative branch after PC has moved past its two bytes: the target and the frame. -/
theorem State.branch_advance (s : State) (taken : Bool) (disp : Byte) :
    let t := (s.advance 2).branch taken disp
    (t.pc.toNat : Int) = (s.pc.toNat + 2 + if taken then disp.toInt else 0) % 65536 ∧ t = { s with pc := t.pc } := by
  rw [State.branch_eq]
  refine ⟨?_, rfl⟩
  cases taken with
  | false => simp
  | true =>
    have hnext : ((s.pc + 2).toNat : Int) = (s.pc.toNat + 2) % 65536 := by
      rw [BitVec.toNat_add]
      rfl
    have htarget := toNat_add_sext16 (s.pc + 2) disp
    rwa [hnext, Int.emod_add_emod] at htarget

/-- Settles O38: each branch is the one operation `State.branch` under its own condition. -/
theorem branches : Obligations.Branches := by
  intro s off long goes
  have branch (taken : Bool) := s.branch_advance taken off
  refine ⟨?bcc, ?bcs, ?beq, ?bne, ?bmi, ?bpl, ?bvs, ?bvc, ?bra, rfl, _, rfl, ?brl, rfl⟩
  case bcc | bcs | beq | bne | bmi | bpl | bvs | bvc | bra => exact ⟨rfl, _, rfl, branch _⟩
  case brl => exact (BitVec.toNat_add _ _).trans (by simp)

/-! ### Jumps (R301 to R305) -/

/-- The bytes of a 16-bit pointer that wraps in its bank, numbered from 0. -/
theorem State.peek16_bank_bytes (s : State) (k : BusKind) (b : Byte) (o : Word) :
    s.peek16 k .bank (mkAddr b o) =
      mkWord (s.peek k (mkAddr b (o + BitVec.ofNat 16 1))) (s.peek k (mkAddr b (o + BitVec.ofNat 16 0))) := by
  rw [State.peek16, byteAddr_bank, byteAddr_bank]

/-- JMP (a) loads PC from a pointer in bank 0 (R303). -/
theorem State.jumpIndirect_eq (s : State) (a : Word) :
    s.jumpIndirect a = { s with pc := s.peek16 .pointer .bank (mkAddr 0x00 a), bus := (s.jumpIndirect a).bus } := rfl

/-- The jump through a table loads PC from a pointer in the program bank (R138). -/
theorem State.jumpTable_eq (s : State) (a : Word) :
    s.jumpTable a =
      { s with pc := s.peek16 .pointer .bank (mkAddr s.pbr (a + s.x)), bus := (s.jumpTable a).bus } := rfl

/-- JML (a) loads PC and PBR from a pointer of three bytes in bank 0 (R305). -/
theorem State.jumpIndirectLong_eq (s : State) (a : Word) :
    s.jumpIndirectLong a = { s with
      pc := s.peek16 .pointer .bank (mkAddr 0x00 a)
      pbr := s.peek .pointer (mkAddr 0x00 (a + BitVec.ofNat 16 2))
      bus := (s.jumpIndirectLong a).bus } := by
  have hp : s.peek24 .pointer .bank (mkAddr 0x00 a) =
      mkAddr (s.peek .pointer (mkAddr 0x00 (a + BitVec.ofNat 16 2))) (s.peek16 .pointer .bank (mkAddr 0x00 a)) := by
    rw [State.peek24, byteAddr_bank]
  simp only [State.jumpIndirectLong, hp, State.jumpLong, offOf_mkAddr, bankOf_mkAddr]
  rfl

/-- Settles O39: two jumps load their operand, three the bytes of a pointer. -/
theorem jumps : Obligations.Jumps := by
  intro s a al byte
  have word (bank : Byte) (o : Word) :
      s.peek16 .pointer .bank (mkAddr bank o) = mkWord (byte bank 1 o) (byte bank 0 o) :=
    s.peek16_bank_bytes .pointer bank o
  refine ⟨rfl, rfl, rfl, rfl, rfl, rfl, rfl, ?jmpAbsInd, ?jmpAbsXInd, ?jmlAbsInd⟩
  case jmpAbsInd => exact ⟨_, rfl, by rw [← word]; exact s.jumpIndirect_eq a⟩
  case jmpAbsXInd => exact ⟨_, rfl, by rw [← word]; exact s.jumpTable_eq a⟩
  case jmlAbsInd => exact ⟨_, rfl, by rw [← word]; exact s.jumpIndirectLong_eq a⟩

/-! ### Reads after pushes -/

/-- A read of any kind of a byte of RAM that has just been pushed answers that byte. -/
theorem Pushes.peek_pushed {s t : State} {place : Nat → Word} {bytes : List Byte} (h : Pushes s t place bytes)
    (hcfg : t.cfg = s.cfg) (hown : t.owned = s.owned) {k : Nat} {b : Byte} (hb : bytes[k]? = some b)
    (hram : s.StackRam (place k)) {ea : Addr}
    (hea : phys s.cfg.variant (stackAddr (place k)) = phys s.cfg.variant ea) (kind : BusKind) : t.peek kind ea = b := by
  have hram' : t.IsRam (phys t.cfg.variant (stackAddr (place k))) := by
    rw [State.IsRam, hown, hcfg]
    exact hram
  have hread := h.written k b hb hram
  rw [State.stackByte, State.peek, t.busRead_ram .read _ hram'] at hread
  rw [State.peek, hcfg, ← hea, ← hcfg, t.busRead_ram kind _ hram', hread]

/-- A read answers after pushes what it answers before them, unless one of them has written the byte. -/
theorem Pushes.peek_untouched {s t : State} {place : Nat → Word} {bytes : List Byte} (h : Pushes s t place bytes)
    (hcfg : t.cfg = s.cfg) (hown : t.owned = s.owned) (hans : t.answers = s.answers) {ea : Addr}
    (hno : ∀ k, k < bytes.length →
      ¬ (phys s.cfg.variant (stackAddr (place k)) = phys s.cfg.variant ea ∧ s.StackRam (place k)))
    (kind : BusKind) : t.peek kind ea = s.peek kind ea := by
  rw [State.peek, State.peek, hcfg]
  refine s.busRead_congr t kind _ hown hans ?_
  by_cases hram : s.IsRam (phys s.cfg.variant ea)
  · refine h.frame _ fun k hk heq => hno k hk ⟨heq.symm, ?_⟩
    rw [State.StackRam, ← heq]
    exact hram
  · exact h.kept _ hram

/-- An operand byte fetched after pushes that have not changed it is the operand's. -/
theorem State.lateByte_of_unchanged {s before : State} {ea : Addr}
    (h : s.peek .operand ea = before.peek .operand ea) (decoded : Byte) : s.lateByte before ea decoded = decoded :=
  if_pos h

/-- Where the operand is what was read before the pushes, the byte fetched is what is read after them. -/
theorem State.lateByte_of_decoded {before : State} {ea : Addr} {decoded : Byte}
    (h : before.peek .operand ea = decoded) (s : State) : s.lateByte before ea decoded = s.peek .operand ea := by
  rw [State.lateByte, h]
  split
  · next heq => exact heq.symm
  · rfl

/-! ### Calls (R306 to R308) -/

/-- JSR a changes S, PC, memory and the bus record (R306). -/
theorem State.call_eq (s : State) (a : Word) :
    s.call a = { s with sp := s.sDown 2, pc := a, mem := (s.call a).mem, bus := (s.call a).bus } := rfl

/-- What JSR a pushes: the address of its last byte. -/
theorem State.call_pushes (s : State) (a : Word) :
    Pushes s (s.call a) s.sDown [hiByte (s.pc + 2), loByte (s.pc + 2)] :=
  Pushes.plain s _ _ (by simp) rfl rfl rfl

/-- What JSR (a,x) pushes: the address of its last byte. -/
theorem State.callIndexedIndirect_pushes (s : State) (a : Word) :
    Pushes s (s.callIndexedIndirect a) (fun k => s.sp - BitVec.ofNat 16 k) [hiByte (s.pc + 2), loByte (s.pc + 2)] := by
  rw [State.callIndexedIndirect_eq]
  exact Pushes.wide s _ _ (by simp) rfl rfl rfl

/-- After the pushes of JSR (a,x) nothing changes what a read answers. -/
theorem State.callIndexedIndirect_peek (s : State) (a : Word) :
    (s.callIndexedIndirect a).peek = (s.pushN16 (s.pc + 2)).peek := rfl

/-- The high operand byte that JSR (a,x) fetches after its pushes (R307). -/
def State.lateHigh (s : State) (a : Word) : Byte :=
  (s.pushN16 (s.pc + 2)).lateByte s (s.codeAddr 2) (hiByte a)

/-- JSR (a,x) goes where the table in the program bank says, as it reads after the pushes (R307). -/
theorem State.callIndexedIndirect_pc (s : State) (a : Word) :
    let t := s.callIndexedIndirect a
    let pa := mkWord (s.lateHigh a) (loByte a) + s.x
    t.pc = mkWord (t.peek .pointer (mkAddr s.pbr (pa + 1))) (t.peek .pointer (mkAddr s.pbr pa)) :=
  State.peek16_bank _ .pointer s.pbr _

/-- Settles O40: JSR a pushes and jumps; the other two fetch a byte after pushes, which is the operand's where the
pushes leave it alone, and what they wrote where they do not. -/
theorem calls : Obligations.Calls := by
  intro s a al code at' hits
  refine ⟨?jsr, ?jsrIndexed, ?jsl⟩
  case jsr => exact ⟨_, rfl, s.call_pushes a, s.call_eq a⟩
  case jsrIndexed =>
    refine ⟨_, s.lateHigh a, rfl, s.callIndexedIndirect_pushes a, fun h0 h1 => ?_, fun h => ?_,
      s.callIndexedIndirect_pc a, ?_⟩
    · refine State.lateByte_of_unchanged ((s.pushN16_pushes _).peek_untouched rfl rfl rfl ?_ _) _
      rintro (_ | _ | k) hk
      · exact h0
      · exact h1
      · exact absurd hk (by simp)
    · rw [s.callIndexedIndirect_peek a]
      exact State.lateByte_of_decoded h _
    · exact s.callIndexedIndirect_eq a
  case jsl =>
    have hbank : Pushes s (s.pushN8 s.pbr) at' [s.pbr] := Pushes.wide s _ _ (by simp) rfl rfl rfl
    refine ⟨_, rfl, s.callLong_pushes al, fun h0 => ?_, fun h hit => ?_, s.callLong_eq al⟩
    · rw [s.callLong_pbr al]
      refine State.lateByte_of_unchanged (hbank.peek_untouched rfl rfl rfl ?_ _) _
      rintro (_ | k) hk
      · exact h0
      · exact absurd hk (by simp)
    · rw [s.callLong_pbr al, State.lateByte_of_decoded h]
      exact hbank.peek_pushed rfl rfl rfl hit.2 hit.1 .operand

/-! ### Returns (R309, R310) -/

/-- RTS changes S, PC and the bus record (R309). -/
theorem State.rts_eq (s : State) :
    s.rts = { s with
      pc := mkWord (s.stackByte (s.sUp 2)) (s.stackByte (s.sUp 1)) + 1, sp := s.sUp 2, bus := s.rts.bus } := rfl

/-- Three steps of S are one step by 3. -/
theorem add_one_add_one_add_one (o : Word) : o + 1 + 1 + 1 = o + 3 := by
  rw [add_one_add_one (o + 1)]
  exact BitVec.add_assoc o 1 2

/-- RTL loads PC and PBR from the three bytes above S (R310). -/
theorem State.rtl_pulls (s : State) :
    s.rtl = { s with
      pc := mkWord (s.stackByte (s.sp + 2)) (s.stackByte (s.sp + 1)) + 1
      pbr := s.stackByte (s.sp + 3), sp := fixedSp s.e (s.sp + 3), bus := s.rtl.bus } := by
  have hpc : s.rtl.pc = mkWord (s.stackByte (s.sp + 2)) (s.stackByte (s.sp + 1)) + 1 := by
    rw [← add_one_add_one]
    exact offOf_mkAddr _ _
  have hpbr : s.rtl.pbr = s.stackByte (s.sp + 3) := by
    rw [← add_one_add_one_add_one]
    exact bankOf_mkAddr _ _
  rw [← hpc, ← hpbr, ← add_one_add_one_add_one]
  exact s.rtl_eq

/-- Settles O41: each return is its pulls after PC has moved on, which changes nothing a pull answers. -/
theorem returns : Obligations.Returns := by
  intro s at'
  have hrts : exec .rts s = .next (s.advance 1).rts := rfl
  have hrtl : exec .rtl s = .next (s.advance 1).rtl := rfl
  rw [State.rts_eq, State.sUp_advance, State.stackByte_advance] at hrts
  rw [State.rtl_pulls, State.stackByte_advance] at hrtl
  exact ⟨⟨_, hrts, rfl⟩, _, hrtl, rfl⟩

/-! ### A return finds its caller (R306 to R311) -/

/-- In Native mode pushes move S down in 16 bits. -/
theorem State.sDown_native {s : State} (he : s.e = false) (k : Nat) : s.sDown k = s.sp - BitVec.ofNat 16 k := by
  rw [State.sDown_eq, ← downTimes_sub_one, he]
  rfl

/-- In Native mode pulls move S up in 16 bits. -/
theorem State.sUp_native {s : State} (he : s.e = false) (k : Nat) : s.sUp k = s.sp + BitVec.ofNat 16 k := by
  induction k with
  | zero => exact (BitVec.add_zero _).symm
  | succ k ih =>
    rw [State.sUp, ih, he, BitVec.ofNat_add, ← BitVec.add_assoc]
    rfl

/-- From one state to another, in Native mode, these bytes have been pushed to RAM, and S is below them. -/
structure PushedNative (s u : State) (bytes : List Byte) : Prop where
  native : u.e = false
  pushed : Pushes s u (fun k => s.sp - BitVec.ofNat 16 k) bytes
  sp : u.sp = s.sp - BitVec.ofNat 16 bytes.length
  ram : ∀ k, k < bytes.length → s.StackRam (s.sp - BitVec.ofNat 16 k)

/-- Above S lie the bytes pushed, the last one first. -/
theorem PushedNative.stackByte_above {s u : State} {bytes : List Byte} (h : PushedNative s u bytes) {j k : Nat}
    {b : Byte} (hb : bytes[k]? = some b) (hlen : j + k = bytes.length) :
    u.stackByte (u.sp + BitVec.ofNat 16 j) = b := by
  have hplace : u.sp + BitVec.ofNat 16 j = s.sp - BitVec.ofNat 16 k := by
    rw [h.sp, ← hlen, Nat.add_comm, BitVec.ofNat_add, ← BitVec.sub_sub, BitVec.sub_add_cancel]
  obtain ⟨hk, -⟩ := List.getElem?_eq_some_iff.mp hb
  rw [hplace]
  exact h.pushed.written k b hb (h.ram k hk)

/-- Pulls of as many bytes as were pushed give S back. -/
theorem PushedNative.sp_above {s u : State} {bytes : List Byte} (h : PushedNative s u bytes) :
    u.sp + BitVec.ofNat 16 bytes.length = s.sp := by
  rw [h.sp, BitVec.sub_add_cancel]

/-- RTS after a push of an address in Native mode. -/
theorem PushedNative.rts {s u t : State} {ret : Word} (h : PushedNative s u [hiByte ret, loByte ret])
    (ht : exec .rts u = .next t) : t.sp = s.sp ∧ t.pc = ret + 1 ∧ t.pbr = u.pbr := by
  obtain ⟨⟨t', hexec, ht'⟩, -⟩ := returns u
  obtain rfl := Host.Outcome.next.inj (ht.symm.trans hexec)
  rw [State.sUp_native h.native, State.sUp_native h.native, h.stackByte_above (j := 2) (k := 0) rfl rfl,
    h.stackByte_above (j := 1) (k := 1) rfl rfl, mkWord_hi_lo] at ht'
  rw [ht']
  exact ⟨h.sp_above, rfl, rfl⟩

/-- RTL after a push of a bank and an address in Native mode. -/
theorem PushedNative.rtl {s u t : State} {bank : Byte} {ret : Word}
    (h : PushedNative s u [bank, hiByte ret, loByte ret]) (ht : exec .rtl u = .next t) :
    t.sp = s.sp ∧ t.pc = ret + 1 ∧ t.pbr = bank := by
  obtain ⟨-, t', hexec, ht'⟩ := returns u
  obtain rfl := Host.Outcome.next.inj (ht.symm.trans hexec)
  rw [h.stackByte_above (j := 3) (k := 0) rfl rfl, h.stackByte_above (j := 2) (k := 1) rfl rfl,
    h.stackByte_above (j := 1) (k := 2) rfl rfl, mkWord_hi_lo, h.native] at ht'
  rw [ht']
  exact ⟨h.sp_above, rfl, rfl⟩

/-- In Native mode JSR, of either kind, pushes the address of its last byte and stays in its bank. -/
theorem exec_jsr_pushedNative {s u : State} {a : Word} (he : s.e = false)
    (hram : ∀ k, k < 2 → s.StackRam (s.sp - BitVec.ofNat 16 k))
    (hu : exec (.jsrAbs a) s = .next u ∨ exec (.jsrAbsXInd a) s = .next u) :
    PushedNative s u [hiByte (s.pc + 2), loByte (s.pc + 2)] ∧ u.pbr = s.pbr := by
  obtain ⟨⟨v, hv, hpushes, heq⟩, ⟨w, -, hw, hwpushes, -, -, -, hweq⟩, -⟩ := calls s a 0
  obtain hu | hu := hu
  · obtain rfl := Host.Outcome.next.inj (hu.symm.trans hv)
    rw [show s.sDown = fun k => s.sp - BitVec.ofNat 16 k from funext (State.sDown_native he)] at hpushes
    rw [State.sDown_native he] at heq
    exact ⟨⟨heq ▸ he, hpushes, heq ▸ rfl, hram⟩, heq ▸ rfl⟩
  · obtain rfl := Host.Outcome.next.inj (hu.symm.trans hw)
    rw [he] at hweq
    exact ⟨⟨hweq ▸ rfl, hwpushes, hweq ▸ rfl, hram⟩, hweq ▸ rfl⟩

/-- In Native mode JSL pushes its bank and the address of its last byte. -/
theorem exec_jsl_pushedNative {s u : State} {al : Addr} (he : s.e = false)
    (hram : ∀ k, k < 3 → s.StackRam (s.sp - BitVec.ofNat 16 k)) (hu : exec (.jslLong al) s = .next u) :
    PushedNative s u [s.pbr, hiByte (s.pc + 3), loByte (s.pc + 3)] := by
  obtain ⟨-, -, v, hv, hpushes, -, -, heq⟩ := calls s 0 al
  obtain rfl := Host.Outcome.next.inj (hu.symm.trans hv)
  rw [he] at heq
  exact ⟨heq ▸ rfl, hpushes, heq ▸ rfl, hram⟩

/-- Settles O42: what a call pushes is what the return pulls, and a return adds the 1 that the call has left out. -/
theorem callThenReturn : Obligations.CallThenReturn := by
  intro s u t a al he
  refine ⟨fun hram hu ht => ?_, fun hram hu ht => ?_⟩
  · obtain ⟨hpushed, hpbr⟩ := exec_jsr_pushedNative he hram hu
    obtain ⟨hsp, hpc, hbank⟩ := hpushed.rts ht
    exact ⟨hsp, hpc.trans (BitVec.add_assoc s.pc 2 1), hbank.trans hpbr⟩
  · obtain ⟨hsp, hpc, hbank⟩ := (exec_jsl_pushedNative he hram hu).rtl ht
    exact ⟨hsp, hpc.trans (BitVec.add_assoc s.pc 3 1), hbank⟩

end Sys2Proof.Machine

/-!
PROOFS of the status statements (46_status_flags.md): the seven single-flag instructions (O43), and the mode switch XCE
(O44).
-/

namespace Sys2Proof.Machine

/-! ### Single flags (R330 to R336) -/

/-- A write of one flag after PC has moved on: the flag, the other flags, the frame. -/
theorem State.setFlag_advance (s : State) (len : Nat) (f : Flag) (b : Bool) :
    let t := (s.advance len).setFlag f b
    getFlag t.p f = b ∧ KeepsFlags s.p t.p [f] ∧ t = { s with p := t.p, pc := s.pc + BitVec.ofNat 16 len } :=
  ⟨(getFlag_putFlag s.p f f b).trans (if_pos rfl), keepsFlags_putFlag s.p f b, rfl⟩

/-- Settles O43: each instruction is one write of its own flag. -/
theorem flagInstructions : Obligations.FlagInstructions := by
  intro s sets
  refine ⟨?clc, ?cld, ?cli, ?clv, ?sec, ?sed, ?sei⟩
  case clc => exact ⟨rfl, _, rfl, s.setFlag_advance 1 .c false⟩
  case cld => exact ⟨rfl, _, rfl, s.setFlag_advance 1 .d false⟩
  case cli => exact ⟨rfl, _, rfl, s.setFlag_advance 1 .i false⟩
  case clv => exact ⟨rfl, _, rfl, s.setFlag_advance 1 .v false⟩
  case sec => exact ⟨rfl, _, rfl, s.setFlag_advance 1 .c true⟩
  case sed => exact ⟨rfl, _, rfl, s.setFlag_advance 1 .d true⟩
  case sei => exact ⟨rfl, _, rfl, s.setFlag_advance 1 .i true⟩

/-! ### XCE (R341) -/

/-- The exchange with C set enters Emulation mode. -/
theorem State.exchangeCE_of_carry {s : State} (hc : getFlag s.p .c = true) :
    s.exchangeCE = { s with
      e := true
      p := putFlag (putFlag (putFlag s.p .c s.e) .m true) .x true
      sp := mkWord 0x01 (loByte s.sp)
      x := mkWord 0x00 (loByte s.x)
      y := mkWord 0x00 (loByte s.y) } := by
  rw [State.exchangeCE, hc]
  rfl

/-- The exchange with C clear enters Native mode, and writes E and P only. -/
theorem State.exchangeCE_of_no_carry {s : State} (hc : getFlag s.p .c = false) :
    s.exchangeCE = { s with e := false, p := putFlag s.p .c s.e } := by
  rw [State.exchangeCE, hc]
  rfl

/-- Entering Emulation mode writes C, M and X. -/
theorem keepsFlags_putFlag_c_m_x (p : Byte) (e : Bool) :
    KeepsFlags p (putFlag (putFlag (putFlag p .c e) .m true) .x true) [.c, .m, .x] :=
  ((keepsFlags_putFlag _ _ _).trans (keepsFlags_putFlag _ _ _)).trans (keepsFlags_putFlag _ _ _)

/-- Settles O44: the old C, which is the new E, decides which of the two switches XCE is. -/
theorem exchangeModes : Obligations.ExchangeModes := by
  intro s
  have hexec : exec .xce s = .next (s.advance 1).exchangeCE := rfl
  cases hc : getFlag s.p .c with
  | true =>
    rw [State.exchangeCE_of_carry (s := s.advance 1) hc] at hexec
    exact ⟨_, hexec, rfl, by simp,
      fun _ => ⟨by simp, by simp, keepsFlags_putFlag_c_m_x s.p s.e, rfl, rfl, rfl⟩, nofun, rfl⟩
  | false =>
    rw [State.exchangeCE_of_no_carry (s := s.advance 1) hc] at hexec
    exact ⟨_, hexec, rfl, by simp, nofun, fun _ => ⟨keepsFlags_putFlag s.p .c s.e, rfl, rfl, rfl⟩, rfl⟩

end Sys2Proof.Machine

/-!
PROOFS of the block-move statements (47_block_move.md): one step of MVN and MVP (O46), and a whole move, which is C + 1
of them (O47).
-/

namespace Sys2Proof.Machine

/-! ### One step (R353 to R355) -/

/-- One step of a block move changes the registers that R353 names, the byte at the destination and the bus record. -/
theorem State.blockMove_eq (s : State) (delta : Word) (dst src : Byte) :
    s.blockMove delta dst src = { s with
      c := nextCount s.cfg.blockMoveFinalC s.c
      x := trunc s.xw (s.x + delta)
      y := trunc s.xw (s.y + delta)
      dbr := dst
      pc := if s.c = 0 then s.pc + 3 else s.pc
      mem := s.mem.put s.owned (phys s.cfg.variant (mkAddr dst s.y)) (s.peek .read (mkAddr src s.x))
      bus := s.bus ++ [⟨.read, phys s.cfg.variant (mkAddr src s.x), s.peek .read (mkAddr src s.x), false⟩,
        ⟨.write, phys s.cfg.variant (mkAddr dst s.y), s.peek .read (mkAddr src s.x), false⟩] } := by
  have hbus : (s.blockMove delta dst src).bus = s.bus ++ [⟨.read, phys s.cfg.variant (mkAddr src s.x),
      s.peek .read (mkAddr src s.x), false⟩, ⟨.write, phys s.cfg.variant (mkAddr dst s.y),
      s.peek .read (mkAddr src s.x), false⟩] := List.append_assoc s.bus [_] [_]
  rw [← hbus]
  rfl

theorem nextCount_of_ne_zero (f : FinalC) {c : Word} (h : c ≠ 0) : nextCount f c = c - 1 := if_neg h

/-- The final C is the parameter BLOCK_MOVE_FINAL_C (R354, U6). -/
theorem nextCount_zero (f : FinalC) : nextCount f 0 = if f = .ffff then 0xFFFF else 0x0000 := by
  cases f <;> rfl

/-- A sum narrowed to a width depends on what is added modulo 2^w only. -/
theorem trunc_add_toNat {w : Width} {delta : Word} {k : Nat} (hk : delta.toNat % 2 ^ widthBits w = k % 2 ^ widthBits w)
    (v : Word) : (trunc w (v + delta)).toNat = (v.toNat % 2 ^ widthBits w + k) % 2 ^ widthBits w := by
  rw [trunc_toNat, BitVec.toNat_add, Nat.mod_mod_of_dvd _ (two_pow_widthBits_dvd w), Nat.add_mod, hk,
    ← Nat.add_mod, Nat.mod_add_mod]

/-- After one step the byte at the destination, where that is RAM, is the one read; every other byte is as it was. -/
theorem State.blockMove_mem (s : State) (delta : Word) (dst src : Byte) :
    let t := s.blockMove delta dst src
    let da := phys s.cfg.variant (mkAddr dst s.y)
    (s.IsRam da → t.mem.read da = s.peek .read (mkAddr src s.x)) ∧
      ∀ a, a ≠ da ∨ ¬ s.IsRam a → t.mem.read a = s.mem.read a := by
  rw [State.blockMove_eq]
  refine ⟨fun h => Memory.read_put_self _ _ _ _ h, fun a ha => ?_⟩
  rcases ha with ha | ha
  · exact Memory.read_put_other _ _ _ _ _ ha
  · exact Memory.read_put_owned _ _ _ _ _ ha

/-- Settles O46: MVN and MVP are the same step, up by 1 and up by 2^w - 1 at the index width. -/
theorem blockMoveStep : Obligations.BlockMoveStep := by
  intro s dst src n b da moves
  have step {i : Instr} {delta : Word} {k : Nat} (hexec : exec i s = .next (s.blockMove delta dst src))
      (hk : delta.toNat % n = k % n) : moves i k := by
    obtain ⟨hbyte, hframe⟩ := s.blockMove_mem delta dst src
    have heq := s.blockMove_eq delta dst src
    refine ⟨_, hexec, hbyte, hframe, trunc_add_toNat hk s.x, trunc_add_toNat hk s.y, fun hc => ?_, fun hc => ?_,
      by rw [heq], by rw [heq]⟩
    · exact ⟨nextCount_of_ne_zero _ hc, if_neg hc⟩
    · have hfinal : (s.blockMove delta dst src).c = if s.cfg.blockMoveFinalC = .ffff then 0xFFFF else 0x0000 := by
        rw [← nextCount_zero, ← hc]
        rfl
      exact ⟨if_pos hc, fun h => by rw [hfinal, if_pos h], fun h => by rw [hfinal, h]; rfl⟩
  refine ⟨step rfl rfl, step rfl ?_⟩
  simp only [n]
  cases s.xw <;> rfl

/-! ### A whole move (R351 to R354) -/

/-- The value of an index register after `k` steps of a block move, at the index width (R353). -/
def State.indexAfter (s : State) (delta v : Word) (k : Nat) : Word := trunc s.xw (v + delta * BitVec.ofNat 16 k)

/-- Before the first step an index register is as it is: it has no bits above its width (R21). -/
theorem State.indexAfter_zero {s : State} {v : Word} (h : getFlag s.p .x = true → hiByte v = 0x00) (delta : Word) :
    s.indexAfter delta v 0 = v := by
  have hv : v + delta * BitVec.ofNat 16 0 = v := by simp
  rw [State.indexAfter, hv, State.xw]
  cases hx : getFlag s.p .x with
  | false => rfl
  | true =>
    rw [flagWidth, if_pos rfl, trunc_w8, ← h hx]
    exact mkWord_hi_lo v

/-- Narrowing before an addition does not matter at the same width. -/
theorem trunc_trunc_add (w : Width) (a b : Word) : trunc w (trunc w a + b) = trunc w (a + b) := by
  rw [trunc_add, trunc_add, trunc_toNat, Nat.mod_mod]

/-- The steps after the first one move the index on from where the first one has left it. -/
theorem State.indexAfter_succ (s : State) (delta v : Word) (k : Nat) :
    s.indexAfter delta (trunc s.xw (v + delta)) k = s.indexAfter delta v (k + 1) := by
  have hsum : v + delta + delta * BitVec.ofNat 16 k = v + delta * BitVec.ofNat 16 (k + 1) := by
    rw [BitVec.ofNat_add, BitVec.mul_add, BitVec.add_comm (delta * _), ← BitVec.add_assoc]
    congr 2
    exact (BitVec.mul_one delta).symm
  rw [State.indexAfter, trunc_trunc_add, hsum]
  rfl

/-- Where the `k`-th byte of a block move comes from. -/
def State.sourceAddr (s : State) (delta : Word) (src : Byte) (k : Nat) : Nat :=
  phys s.cfg.variant (mkAddr src (s.indexAfter delta s.x k))

/-- Where the `k`-th byte of a block move goes to. -/
def State.destAddr (s : State) (delta : Word) (dst : Byte) (k : Nat) : Nat :=
  phys s.cfg.variant (mkAddr dst (s.indexAfter delta s.y k))

/-- From one state to another `n` steps of a block move have been made, the last of them with C = 0. -/
structure BlockMoved (s t : State) (delta : Word) (dst src : Byte) (n : Nat) : Prop where
  copied : (s.xw = .w8 → n ≤ 256) → (∀ k, k < n → s.IsRam (s.destAddr delta dst k)) →
    (∀ j k, k < j → j < n → s.sourceAddr delta src j ≠ s.destAddr delta dst k) →
    ∀ k, k < n → t.mem.read (s.destAddr delta dst k) = s.busRead .read (s.sourceAddr delta src k)
  frame : ∀ a, (∀ k, k < n → a ≠ s.destAddr delta dst k) ∨ ¬ s.IsRam a → t.mem.read a = s.mem.read a
  rest : t = { s with
    c := if s.cfg.blockMoveFinalC = .ffff then 0xFFFF else 0x0000
    x := s.indexAfter delta s.x n
    y := s.indexAfter delta s.y n
    dbr := dst
    pc := s.pc + 3
    mem := t.mem
    bus := t.bus }

/-- The first byte goes to where Y says. -/
theorem State.destAddr_zero {s : State} (hs : s.indexInv) (delta : Word) (dst : Byte) :
    s.destAddr delta dst 0 = phys s.cfg.variant (mkAddr dst s.y) := by
  rw [State.destAddr, State.indexAfter_zero fun hx => (hs hx).2]

/-- The first byte comes from where X says. -/
theorem State.sourceAddr_zero {s : State} (hs : s.indexInv) (delta : Word) (src : Byte) :
    s.sourceAddr delta src 0 = phys s.cfg.variant (mkAddr src s.x) := by
  rw [State.sourceAddr, State.indexAfter_zero fun hx => (hs hx).1]

/-- After the first step the bytes still to come lie where they lay before it. -/
theorem State.sourceAddr_blockMove (s : State) (delta : Word) (dst src : Byte) (k : Nat) :
    (s.blockMove delta dst src).sourceAddr delta src k = s.sourceAddr delta src (k + 1) := by
  rw [State.sourceAddr, State.sourceAddr, ← s.indexAfter_succ delta s.x k]
  rfl

theorem State.destAddr_blockMove (s : State) (delta : Word) (dst src : Byte) (k : Nat) :
    (s.blockMove delta dst src).destAddr delta dst k = s.destAddr delta dst (k + 1) := by
  rw [State.destAddr, State.destAddr, ← s.indexAfter_succ delta s.y k]
  rfl

/-- An index that goes up or down by one does not come round within 2^w steps. -/
theorem State.indexAfter_ne_zero (s : State) {delta : Word} (hd : delta = 1 ∨ delta = -1) (v : Word) {k : Nat}
    (hpos : 0 < k) (hk : k < 2 ^ widthBits s.xw) : s.indexAfter delta v k ≠ s.indexAfter delta v 0 := by
  intro h
  have hlt := lt_two_pow_of_lt_width hk
  have h := congrArg BitVec.toNat h
  simp only [State.indexAfter, trunc_toNat] at h
  rcases hd with rfl | rfl <;> cases hw : s.xw <;>
    simp [hw, widthBits, BitVec.toNat_add] at h hk <;> omega

/-- No later byte goes to where the first one has gone. -/
theorem State.destAddr_ne_zero (s : State) {delta : Word} (hd : delta = 1 ∨ delta = -1) (dst : Byte) {k : Nat}
    (hpos : 0 < k) (hk : k < 2 ^ widthBits s.xw) : s.destAddr delta dst k ≠ s.destAddr delta dst 0 := by
  intro h
  have hoff := offOf_of_phys _ _ _ h
  rw [offOf_mkAddr, offOf_mkAddr] at hoff
  exact s.indexAfter_ne_zero hd s.y hpos hk hoff

/-- The step with C = 0 is a whole move of one byte. -/
theorem BlockMoved.one {s : State} (hs : s.indexInv) (hc : s.c = 0) (delta : Word) (dst src : Byte) :
    BlockMoved s (s.blockMove delta dst src) delta dst src 1 where
  copied _ hram _ k hk := by
    obtain rfl := Nat.lt_one_iff.mp hk
    have hram := hram 0 hk
    rw [State.destAddr_zero hs] at hram ⊢
    rw [State.sourceAddr_zero hs]
    exact (s.blockMove_mem delta dst src).1 hram
  frame a ha := (s.blockMove_mem delta dst src).2 a
    (ha.imp_left fun h => s.destAddr_zero hs delta dst ▸ h 0 Nat.one_pos)
  rest := by
    have hone (v : Word) : s.indexAfter delta v 1 = trunc s.xw (v + delta) := by
      rw [← s.indexAfter_succ, State.indexAfter]
      simp
    rw [hone, hone, ← nextCount_zero]
    conv_lhs => rw [State.blockMove_eq, hc, if_pos rfl]
    rw [State.blockMove_eq]

/-- A step with C not 0 and a whole move after it make a whole move of one byte more. -/
theorem BlockMoved.cons {s t : State} {delta : Word} {dst src : Byte} {m : Nat}
    (h : BlockMoved (s.blockMove delta dst src) t delta dst src m) (hs : s.indexInv) (hc : s.c ≠ 0)
    (hm : m < 2 ^ 16) (hd : delta = 1 ∨ delta = -1) : BlockMoved s t delta dst src (m + 1) where
  copied hwidth hram hover k hk := by
    have hwrap : m < 2 ^ widthBits s.xw := by
      cases hw : s.xw with
      | w8 => exact hwidth hw
      | w16 => exact hm
    obtain ⟨hbyte, hframe⟩ := s.blockMove_mem delta dst src
    cases k with
    | zero =>
      have hkept := h.frame (s.destAddr delta dst 0) (.inl fun k hk => by
        rw [State.destAddr_blockMove]
        exact (s.destAddr_ne_zero hd dst k.succ_pos (by omega)).symm)
      have hram := hram 0 hk
      rw [State.destAddr_zero hs] at hkept hram ⊢
      rw [State.sourceAddr_zero hs, hkept]
      exact hbyte hram
    | succ k =>
      have hcopied := h.copied (fun hw => (Nat.le_succ m).trans (hwidth hw))
        (fun k hk => by rw [State.destAddr_blockMove]; exact hram (k + 1) (by omega))
        (fun j k hjk hj => by
          rw [State.sourceAddr_blockMove, State.destAddr_blockMove]
          exact hover (j + 1) (k + 1) (by omega) (by omega)) k (by omega)
      rw [State.destAddr_blockMove, State.sourceAddr_blockMove] at hcopied
      rw [hcopied]
      refine State.busRead_congr s _ .read _ rfl rfl (hframe _ (.inl ?_))
      rw [← State.destAddr_zero hs delta dst]
      exact hover (k + 1) 0 k.succ_pos hk
  frame a ha := by
    have hfirst := (s.blockMove_mem delta dst src).2 a
      (ha.imp_left fun h => s.destAddr_zero hs delta dst ▸ h 0 m.succ_pos)
    rw [← hfirst]
    refine h.frame a (ha.imp_left fun h k hk => ?_)
    rw [State.destAddr_blockMove]
    exact h (k + 1) (by omega)
  rest := by
    have hpc : (s.blockMove delta dst src).pc = s.pc := if_neg hc
    have hindex (v : Word) : (s.blockMove delta dst src).indexAfter delta (trunc s.xw (v + delta)) m =
        s.indexAfter delta v (m + 1) := s.indexAfter_succ delta v m
    rw [h.rest, ← hindex, ← hindex, hpc]
    rfl

/-- As many executions as C counts, and one more, make a whole move (R353, U11). -/
theorem execTimes_blockMoved {i : Instr} {delta : Word} {dst src : Byte}
    (hexec : ∀ s, exec i s = .next (s.blockMove delta dst src)) (hd : delta = 1 ∨ delta = -1) (m : Nat) (s : State)
    (hm : s.c.toNat = m) (hs : s.indexInv) :
    ∃ t, execTimes i (m + 1) s = .next t ∧ BlockMoved s t delta dst src (m + 1) := by
  induction m generalizing s with
  | zero =>
    refine ⟨_, ?_, BlockMoved.one hs (BitVec.eq_of_toNat_eq hm) delta dst src⟩
    simp only [execTimes, hexec]
  | succ m ih =>
    have hc : s.c ≠ 0 := by
      intro h
      rw [h] at hm
      exact absurd hm (Nat.succ_ne_zero m).symm
    have hcount : (s.blockMove delta dst src).c.toNat = m := by
      show (nextCount _ s.c).toNat = m
      rw [nextCount_of_ne_zero _ hc]
      bv_omega
    obtain ⟨t, ht, hmoved⟩ := ih _ hcount ((ModesKept.blockMove s delta dst src).index hs)
    refine ⟨t, ?_, hmoved.cons hs hc (hm ▸ s.c.isLt) hd⟩
    rw [execTimes, hexec]
    exact ht

/-- Settles O47: the whole move is one induction on C for MVN and MVP alike. -/
theorem blockMoveWhole : Obligations.BlockMoveWhole := by
  intro s dst src hs n moved
  have move {i : Instr} {delta : Word} (hexec : ∀ s, exec i s = .next (s.blockMove delta dst src))
      (hd : delta = 1 ∨ delta = -1) : moved i delta := by
    obtain ⟨t, ht, hcopied, hframe, hrest⟩ := execTimes_blockMoved hexec hd s.c.toNat s rfl hs
    exact ⟨t, ht, hcopied, hframe, hrest⟩
  exact ⟨move (fun _ => rfl) (.inl rfl), move (fun _ => rfl) (.inr rfl)⟩

end Sys2Proof.Machine

/-!
PROOFS of the system statements (48_system.md, and R401 and R410 to R414 of 60_exceptions.md): BRK and COP (O48), the
vectors (O49), RTI (O50), RTI after an interrupt sequence (O51), and WAI, STP, NOP and WDM (O56).
-/

namespace Sys2Proof.Machine

/-! ### BRK and COP (R360, R361) -/

/-- What the interrupt sequence does depends on PC by the return address only. -/
theorem Entered.of_advance {s t : State} {n : Nat} {src : Source} {ret : Word}
    (h : Entered (s.advance n) t src ret) : Entered s t src ret := by
  obtain ⟨⟨written, frame, kept⟩, sp, i, d, flags, pbr, dbr, pc, rest⟩ := h
  rw [State.sDown_advance] at written frame sp
  exact ⟨⟨written, frame, kept⟩, sp, i, d, flags, pbr, dbr, pc, rest⟩

/-- Settles O48: both are the interrupt sequence of R410 once PC has moved past the signature. -/
theorem softwareInterrupts : Obligations.SoftwareInterrupts := by
  intro s sig
  exact ⟨⟨_, rfl, ((s.advance 2).interrupt_entered .brk (s.pc + 2)).of_advance⟩,
    _, rfl, ((s.advance 2).interrupt_entered .cop (s.pc + 2)).of_advance⟩

/-! ### The vectors (R401) -/

/-- PC after the interrupt sequence: the two bytes at the vector, a number of bank 0 on both parts. -/
theorem State.interrupt_pc_toNat (s : State) (src : Source) (ret : Word) :
    let t := s.interrupt src ret
    t.pc.toNat = (t.busRead .vector (vectorOf src s.e + 1).toNat).toNat * 256 +
      (t.busRead .vector (vectorOf src s.e).toNat).toNat := by
  intro t
  rw [(s.interrupt_entered src ret).pc, mkWord_toNat, State.peek, State.peek, phys_bank0, phys_bank0]

/-- PC after the reset sequence: the two bytes at the reset vector (R450 step 3). -/
theorem State.resetSequence_pc (s : State) :
    s.resetSequence.pc = mkWord (s.busRead .vector 0xFFFD) (s.busRead .vector 0xFFFC) := by
  have hpc : s.resetSequence.pc =
      mkWord (s.peek .vector (mkAddr 0x00 (resetVector + 1))) (s.peek .vector (mkAddr 0x00 resetVector)) :=
    State.peek16_bank _ .vector 0x00 resetVector
  rw [hpc, State.peek, State.peek, phys_bank0, phys_bank0]
  rfl

/-- Settles O49: the vector of each source in the mode of the state. -/
theorem vectors : Obligations.Vectors := by
  intro s ret word goes
  have hgoes {src : Source} {emulation native : Nat}
      (h : ∀ e, (vectorOf src e).toNat = (if e then emulation else native) ∧
        (vectorOf src e + 1).toNat = (if e then emulation else native) + 1) : goes src emulation native := by
    have hpc := s.interrupt_pc_toNat src ret
    rwa [(h s.e).1, (h s.e).2] at hpc
  refine ⟨hgoes ?irq, hgoes ?brk, hgoes ?nmi, hgoes ?abort, hgoes ?cop, ?reset⟩
  case irq | brk | nmi | abort | cop => decide
  case reset => rw [State.resetSequence_pc, mkWord_toNat]

/-! ### RTI (R362) -/

/-- Settles O50: RTI after PC has moved on, which changes nothing a pull answers; P is written normalised. -/
theorem returnFromInterrupt : Obligations.ReturnFromInterrupt := by
  intro s pulled p narrow
  have hexec : exec .rti s = .next (s.advance 1).returnFromInterrupt := rfl
  rw [State.returnFromInterrupt_eq, State.loadP_eq, State.sUp_advance, State.stackByte_advance] at hexec
  exact ⟨_, hexec, rfl⟩

/-! ### RTI after an interrupt sequence (R411, R412, R425) -/

/-- Pulls go back over the places of the pushes, the last one first. -/
theorem State.sUp_eq_sDown {s u : State} (hs : s.stackInv) (he : u.e = s.e) {n : Nat} (hsp : u.sp = s.sDown n)
    {j k : Nat} (hjk : j + k = n) : u.sUp j = s.sDown k := by
  induction j generalizing k with
  | zero => rw [State.sUp, hsp, ← hjk, Nat.zero_add]
  | succ j ih =>
    rw [State.sUp, he, ih (k := k + 1) (by omega), State.sDown]
    exact spUp_spDown _ _ fun h => State.hiByte_sDown hs h k

/-- The interrupt sequence leaves C, X, Y, D and E (R410). -/
theorem Entered.kept_registers {s u : State} {src : Source} {ret : Word} (h : Entered s u src ret) :
    u.c = s.c ∧ u.x = s.x ∧ u.y = s.y ∧ u.d = s.d ∧ u.e = s.e := by
  rw [h.rest]
  exact ⟨rfl, rfl, rfl, rfl, rfl⟩

/-- The byte a pull after the interrupt sequence answers is the one pushed there, where that is RAM. -/
theorem Entered.stackByte_sUp {s u : State} {src : Source} {ret : Word} (h : Entered s u src ret) (hs : s.stackInv)
    (he : u.e = s.e) {j k : Nat} {b : Byte} (hb : (s.frameBytes src ret)[k]? = some b)
    (hjk : j + k = (s.frameBytes src ret).length) (hram : s.StackRam (s.sDown k)) : u.stackByte (u.sUp j) = b := by
  rw [State.sUp_eq_sDown hs he h.sp hjk]
  exact h.pushed.written k b hb hram

/-- The normalisation of the stacked status byte gives P back: in Emulation mode M and X are 1, and only they are
changed in what is stacked (R31, R412). -/
theorem stackedP_or_m_x {p : Byte} (hm : getFlag p .m = true) (hx : getFlag p .x = true) (src : Source) :
    stackedP src true p ||| 0b00110000 = p := by
  rw [← putFlag_m_x]
  apply flags_ext
  intro f
  cases f <;> simp [stackedP, hm, hx]

/-- What RTI pulls after an interrupt sequence on a stack of RAM: P as it was once it is normalised, the return address,
in Native mode the bank; and S is back where it was (R362, R411, R412). -/
theorem Entered.pulled {s u : State} {src : Source} {ret : Word} (h : Entered s u src ret) (hf : s.flagsInv)
    (hs : s.stackInv) (he : u.e = s.e)
    (hram : ∀ k, k < (s.frameBytes src ret).length → s.StackRam (s.sDown k)) :
    (if u.e then u.stackByte (u.sUp 1) ||| 0b00110000 else u.stackByte (u.sUp 1)) = s.p ∧
      mkWord (u.stackByte (u.sUp 3)) (u.stackByte (u.sUp 2)) = ret ∧
      (if u.e then u.pbr else u.stackByte (u.sUp 4)) = (if s.e then 0x00 else s.pbr) ∧
      (if u.e then u.sUp 3 else u.sUp 4) = s.sp := by
  have byte {j k : Nat} {b : Byte} (hb : (s.frameBytes src ret)[k]? = some b)
      (hjk : j + k = (s.frameBytes src ret).length) : u.stackByte (u.sUp j) = b := by
    obtain ⟨hk, -⟩ := List.getElem?_eq_some_iff.mp hb
    exact h.stackByte_sUp hs he hb hjk (hram k hk)
  have back := State.sUp_eq_sDown (k := 0) hs he h.sp (Nat.add_zero _)
  rw [he]
  cases hmode : s.e with
  | true =>
    obtain ⟨hm, hx⟩ := hf hmode
    have hframe : s.frameBytes src ret = [hiByte ret, loByte ret, stackedP src true s.p] := by
      rw [State.frameBytes, if_pos hmode, stackedP_emulation]
    rw [hframe] at byte back
    rw [byte (j := 1) (k := 2) rfl rfl, byte (j := 2) (k := 1) rfl rfl, byte (j := 3) (k := 0) rfl rfl]
    exact ⟨stackedP_or_m_x hm hx src, mkWord_hi_lo ret, h.pbr, back⟩
  | false =>
    have hframe : s.frameBytes src ret = [s.pbr, hiByte ret, loByte ret, s.p] := by
      rw [State.frameBytes, hmode]
      rfl
    rw [hframe] at byte back
    rw [byte (j := 1) (k := 3) rfl rfl, byte (j := 2) (k := 2) rfl rfl, byte (j := 3) (k := 1) rfl rfl,
      byte (j := 4) (k := 0) rfl rfl]
    exact ⟨rfl, mkWord_hi_lo ret, rfl, back⟩

/-- An index register that has no bits above its width is not changed by the normalisation of P (R21, R340). -/
theorem normalised_index {p : Byte} {v : Word} (h : getFlag p .x = true → hiByte v = 0x00) :
    (if p.getLsbD 4 then mkWord 0x00 (loByte v) else v) = v := by
  split
  next hx => rw [← h hx, mkWord_hi_lo]
  next => rfl

/-- Settles O51: RTI pulls what the sequence has pushed; the rest of the registers neither of the two has changed. -/
theorem interruptThenReturn : Obligations.InterruptThenReturn := by
  intro s u t src ret hf hs hi hram hu ht
  have hent : Entered s u src ret := hu ▸ s.interrupt_entered src ret
  obtain ⟨hc, hx, hy, hd, he⟩ := hent.kept_registers
  obtain ⟨hp, hpc, hpbr, hsp⟩ := hent.pulled hf hs he hram
  obtain ⟨t', hexec, ht'⟩ := returnFromInterrupt u
  obtain rfl := Host.Outcome.next.inj (ht.symm.trans hexec)
  rw [hp, hpc, hpbr, hsp, hx, hy, normalised_index fun h => (hi h).1, normalised_index fun h => (hi h).2] at ht'
  rw [ht']
  exact ⟨rfl, rfl, hc, rfl, rfl, rfl, hd, he, rfl, hent.dbr⟩

/-! ### WAI, STP, NOP and WDM (R363 to R366) -/

/-- Settles O56: each is its one line of the model. -/
theorem waitStopNop : Obligations.WaitStopNop := fun _ _ => ⟨rfl, rfl, rfl, rfl⟩

end Sys2Proof.Machine

/-!
PROOFS of the exception statements (60_exceptions.md): the step that runs an instruction (O6), the hardware interrupts
(O52, O53), what ABORT- leaves of a step (O54), and the waiting and the stopped machine (O57).
-/

namespace Sys2Proof.Machine

/-! ### The ways R403 goes -/

/-- A stopped machine does nothing (R435 (b)). -/
theorem step_of_stopped {s : State} (hres : s.present.resLow = false) (hin : s.present.inReset = false)
    (hstop : s.present.stopped = true) : step s = .next s.present := by
  simp [step, State.proceed, hres, hin, hstop]

/-- A machine that nothing wakes latches ABORT- and goes on waiting (R435 (a)). -/
theorem step_of_waiting {s : State} (hres : s.present.resLow = false) (hin : s.present.inReset = false)
    (hstop : s.present.stopped = false) (hwait : s.present.waiting = true) (hwake : s.present.wakes = false) :
    step s = .next (s.present.latchAbort s.abortPin) := by
  simp [step, State.proceed, hres, hin, hstop, hwait, hwake]

theorem State.Running.not_stopped {u : State} (h : u.Running) : u.stopped = false := by
  obtain ⟨-, -, hstop, -⟩ := h
  exact hstop

/-- A running machine comes to the interrupt test, its wait ended (R403 steps 4 to 7). -/
theorem step_of_running {s : State} (h : s.present.Running) :
    step s = State.boundary { s.present with waiting := false } s.present.waiting s.abortPin := by
  obtain ⟨hres, hin, hstop, hwake⟩ := h
  have hgo : (s.present.waiting && !s.present.wakes) = false := by
    cases hw : s.present.waiting with
    | false => rfl
    | true => simp [hwake hw]
  simp [step, State.proceed, hres, hin, hstop, hgo]

/-- No ABORT- is pending, as the interrupt test asks it. -/
theorem State.NoAbortPending.not_taken {u : State} (h : u.NoAbortPending) :
    ¬ (u.abortPending = true ∧ u.cfg.variant = .w65c816) := by
  rintro ⟨hp, hv⟩
  rw [h hp] at hv
  cases hv

/-- Where a hardware interrupt sequence begins, the step is that sequence, aborted or not (R402, R403 steps 4 to 6). -/
theorem step_of_starts {s v : State} {src : Source} (hrun : s.present.Running) (h : s.present.Starts src v) :
    step s = .next (v.settle .sequence s.abortPin (v.interrupt src v.pc)) := by
  rw [step_of_running hrun]
  rcases h with ⟨rfl, hp, hv, rfl⟩ | ⟨rfl, hna, hnmi, rfl⟩ | ⟨rfl, hna, hnmi, hirq, hi, rfl⟩
  · exact if_pos ⟨hp, hv⟩
  · exact (if_neg hna.not_taken).trans (if_pos hnmi)
  · refine (if_neg hna.not_taken).trans ((if_neg ?_).trans (if_pos ⟨hirq, hi⟩))
    exact Bool.eq_false_iff.mp hnmi

/-- Where no interrupt is taken, the step is the instruction at PBR:PC, aborted or not (R403 step 7). -/
theorem step_of_decoded {s r : State} {i : Instr} {rest : List Byte} (hrun : s.present.Running)
    (hna : s.present.NoAbortPending) (hnmi : s.present.nmiPending = false)
    (hirq : s.present.irqLow = true → getFlag s.present.p .i = true)
    (hdec : State.decoded { s.present with waiting := false } = .ok (i, rest))
    (hexec : exec i (State.noteFetch { s.present with waiting := false } i) = .next r) :
    step s = .next (State.settle { s.present with waiting := false } (abortClass i) s.abortPin r) := by
  have hq : ¬ (s.present.irqLow = true ∧ getFlag s.present.p .i = false) := by
    rintro ⟨hlow, hi⟩
    rw [hirq hlow] at hi
    cases hi
  rw [step_of_running hrun]
  refine (if_neg hna.not_taken).trans ((if_neg (Bool.eq_false_iff.mp hnmi)).trans ((if_neg hq).trans ?_))
  simp only [State.runInstr, hdec, hexec]

/-! ### The step that runs an instruction (R403 step 7) -/

/-- Fetching and executing changes no platform field, but for the waiting and the stopped state. -/
theorem exec_noteFetch_traced {u r : State} {i : Instr} (h : exec i (u.noteFetch i) = .next r) :
    ∃ l, Traced u { r with waiting := u.waiting, stopped := u.stopped } l := by
  obtain ⟨k, hk⟩ := Traced.noteFetch u i
  obtain ⟨l, hl⟩ := exec_traced_any i _ r h
  exact ⟨_, hk.trans hl⟩

/-- Settles O6: with nothing that aborts it, the step ends as `exec` leaves it. -/
theorem stepRunsDecoded : Obligations.StepRunsDecoded := by
  intro s i rest u hrun hnoabort hna hnmi hirq hdec
  obtain ⟨hranges, hearly, hlate⟩ := hnoabort
  obtain ⟨r, hexec⟩ := exec_completes i (u.noteFetch i)
  obtain ⟨l, hl⟩ := exec_noteFetch_traced hexec
  have hr : r.abortRanges = [] := hl.abortRanges.trans hranges
  refine ⟨?_, rfl⟩
  rw [step_of_decoded hrun hna hnmi hirq hdec hexec, hexec, State.settle_none _ _ _ _ hr hearly hlate]

/-! ### The hardware interrupts (R402, R403 steps 4 to 6) -/

/-- Where a sequence begins the wait is ended; the bus record and what the platform rejects are as the boundary has
left them. -/
theorem State.Starts.kept {u v : State} {src : Source} (h : u.Starts src v) :
    v.cfg = u.cfg ∧ v.abortRanges = u.abortRanges ∧ v.bus = u.bus ∧ v.waiting = false ∧
      v.stopped = u.stopped := by
  rcases h with ⟨-, -, -, rfl⟩ | ⟨-, -, -, rfl⟩ | ⟨-, -, -, -, -, rfl⟩ <;> exact ⟨rfl, rfl, rfl, rfl, rfl⟩

/-- A sequence that nothing aborts is taken whole (R410). -/
theorem step_entered {s v : State} {src : Source} (hrun : s.present.Running) (hnoabort : s.NoAbort)
    (h : s.present.Starts src v) : ∃ t, step s = .next t ∧ Entered v t src v.pc := by
  obtain ⟨hranges, hearly, hlate⟩ := hnoabort
  obtain ⟨-, hsame, -⟩ := h.kept
  obtain ⟨l, hl⟩ := Traced.interrupt v src v.pc
  refine ⟨_, step_of_starts hrun h, ?_⟩
  rw [State.settle_none _ _ _ _ (hl.abortRanges.trans (hsame.trans hranges)) hearly hlate]
  exact v.interrupt_entered src v.pc

/-- Settles O52: NMI- is tested before IRQ-, which alone is masked by P.I. -/
theorem hardwareInterrupts : Obligations.HardwareInterrupts := by
  intro s u hrun hnoabort hna
  refine ⟨fun hnmi => ?_, fun hnmi hirq hi => ?_⟩
  · exact step_entered hrun hnoabort (.inr (.inl ⟨rfl, hna, hnmi, rfl⟩))
  · exact step_entered hrun hnoabort (.inr (.inr ⟨rfl, hna, hnmi, hirq, hi, rfl⟩))

/-- Settles O53: the latch of ABORT- is tested first. -/
theorem abortTaken : Obligations.AbortTaken := by
  intro s u hrun hnoabort hp hv
  exact step_entered hrun hnoabort (.inl ⟨rfl, hp, hv, rfl⟩)

/-! ### What ABORT- leaves (R420, R421) -/

/-- The end of a step that ABORT- has hit, where the machine neither waits nor is stopped. -/
theorem State.settle_of_time {before t : State} {cls : AbortClass} {pin : AbortInput} {late : Bool}
    (ht : t.abortTime cls pin = some late) (hw : t.waiting = false) (hs : t.stopped = false) :
    before.settle cls pin t = if late then lateUpdate cls t (before.restored t) else before.restored t := by
  simp [State.settle, ht, hw, hs]

/-- A WAI that waits and a STP keep what they did (R435). -/
theorem State.settle_of_idle {before t : State} {cls : AbortClass} {pin : AbortInput} {late : Bool}
    (ht : t.abortTime cls pin = some late) (hidle : t.waiting = true ∨ t.stopped = true) :
    before.settle cls pin t = { t with abortPending := true } := by
  rcases hidle with h | h <;> simp [State.settle, ht, h]

/-- The registers restored and the latch set: an abort, whichever registers are kept (R420). -/
theorem Traced.aborted {u r t kept : State} {l : List BusAccess} (h : Traced u r l) (hbus : u.bus = [])
    (hreg : SameRegisters kept t) (hlatch : t.abortPending = true) (htbus : t.bus = r.bus)
    (hmem : t.mem = r.unblocked u.mem) : Aborted kept r t :=
  ⟨hreg, hlatch, htbus, fun b hb => by rw [hmem]; exact h.unblocked hbus b hb⟩

/-- An ABORT- in time leaves every register as it was (R420 step 3). -/
theorem Traced.aborted_inTime {u r : State} {l : List BusAccess} (h : Traced u r l) (hbus : u.bus = []) :
    Aborted u r (u.restored r) :=
  h.aborted hbus ⟨rfl, rfl, rfl, rfl, rfl, rfl, rfl, rfl, rfl, rfl⟩ rfl rfl rfl

/-- The registers a late ABORT- leaves: those of before with the updates that R421 lets through. -/
def lateKept (cls : AbortClass) (u r : State) : State :=
  match cls with
  | .plain => u
  | .modify => { u with p := r.p }
  | .rti => { u with p := r.p, x := r.x, y := r.y }
  | .sequence => { u with pbr := 0x00, dbr := if u.e then 0x00 else u.dbr }

/-- A value of P that has been loaded is loaded again as it is: its normalisation changes nothing more, and narrows the
index registers as the first one did (R31, R340). -/
theorem State.loadP_loadP_p {s t : State} (he : t.e = s.e) (hx : t.x = s.x) (hy : t.y = s.y) (v : Byte) :
    (t.loadP (s.loadP v).p).p = (s.loadP v).p ∧ (t.loadP (s.loadP v).p).x = (s.loadP v).x ∧
      (t.loadP (s.loadP v).p).y = (s.loadP v).y := by
  have hp : (t.loadP (s.loadP v).p).p = (s.loadP v).p := by
    rw [State.loadP_p t, he, State.loadP_p]
    cases s.e with
    | false => rfl
    | true => simp only [if_true, putFlag_m_x, BitVec.or_assoc, BitVec.or_self]
  exact ⟨hp, by rw [State.loadP_x t, hp, hx, ← State.loadP_x], by rw [State.loadP_y t, hp, hy, ← State.loadP_y]⟩

/-- P, X and Y after RTI are those of the state before it with the pulled byte loaded into P (R362). -/
theorem exec_rti_loadP {s r : State} (h : exec .rti s = .next r) :
    ∃ v, r.p = (s.loadP v).p ∧ r.x = (s.loadP v).x ∧ r.y = (s.loadP v).y := by
  obtain rfl := Host.Outcome.next.inj h
  refine ⟨(s.advance 1).stackByte ((s.advance 1).sUp 1), ?_⟩
  rw [State.returnFromInterrupt_eq]
  exact ⟨rfl, rfl, rfl⟩

/-- After RTI a late ABORT- leaves P, X and Y as RTI has written them (R421 (b)). -/
theorem sameRegisters_late_rti {u r : State} (h : exec .rti (u.noteFetch .rti) = .next r) :
    SameRegisters (lateKept .rti u r) (lateUpdate .rti r (u.restored r)) := by
  obtain ⟨v, hp, hx, hy⟩ := exec_rti_loadP h
  have hagain := State.loadP_loadP_p (s := u.noteFetch .rti) (t := u.restored r) rfl rfl rfl v
  rw [← hp, ← hx, ← hy] at hagain
  obtain ⟨hp, hx, hy⟩ := hagain
  exact ⟨rfl, hx, hy, rfl, rfl, rfl, rfl, rfl, hp, rfl⟩

/-- A late ABORT- leaves the registers of before, less the updates of its class (R421). -/
theorem Traced.aborted_late {u r : State} {l : List BusAccess} (h : Traced u r l) (hbus : u.bus = []) (cls : AbortClass)
    (hrti : cls = .rti → exec .rti (u.noteFetch .rti) = .next r) :
    Aborted (lateKept cls u r) r (lateUpdate cls r (u.restored r)) := by
  cases cls with
  | plain | modify | sequence =>
    exact h.aborted hbus ⟨rfl, rfl, rfl, rfl, rfl, rfl, rfl, rfl, rfl, rfl⟩ rfl rfl rfl
  | rti => exact h.aborted hbus (sameRegisters_late_rti (hrti rfl)) rfl rfl rfl

/-- What ABORT- leaves of a step whose end `settle` decides, where the machine neither waits nor is stopped. -/
theorem Traced.step_aborted {s u r : State} {cls : AbortClass} {l : List BusAccess} (h : Traced u r l)
    (hbus : u.bus = []) (hrejects : u.rejects = s.present.rejects) (hw : u.waiting = false) (hs : u.stopped = false)
    (hrti : cls = .rti → exec .rti (u.noteFetch .rti) = .next r)
    (hstep : step s = .next (u.settle cls s.abortPin r)) :
    (s.AbortsInTime r cls → ∃ t, step s = .next t ∧ Aborted u r t) ∧
      (s.AbortsLate r cls → ∃ t, step s = .next t ∧ Aborted (lateKept cls u r) r t) := by
  have hr := h.rejects.trans hrejects
  have hrw := h.waiting.trans hw
  have hrs := h.stopped.trans hs
  refine ⟨fun ha => ⟨_, hstep, ?_⟩, fun ha => ⟨_, hstep, ?_⟩⟩
  · rw [State.settle_of_time (ha.time hr) hrw hrs]
    exact h.aborted_inTime hbus
  · rw [State.settle_of_time (ha.time hr) hrw hrs]
    exact h.aborted_late hbus cls hrti

/-- RTI alone is of its class. -/
theorem eq_rti_of_abortClass {i : Instr} (h : abortClass i = .rti) : i = .rti := by
  cases i
  case rti => rfl
  all_goals cases h

/-- Settles O54: the end of a step is decided by when ABORT- comes, for an instruction and for a hardware sequence
alike. -/
theorem abortRestores : Obligations.AbortRestores := by
  refine ⟨?instr, ?sequence⟩
  case instr =>
    intro s r i rest u cls hrun hna hnmi hirq hdec hexec
    have hstop := hrun.not_stopped
    have hstep : step s = .next (u.settle cls s.abortPin r) := step_of_decoded hrun hna hnmi hirq hdec hexec
    obtain ⟨l, hl⟩ := exec_noteFetch_traced hexec
    have hr : r.rejects = s.present.rejects := hl.rejects
    refine ⟨fun hidle ha => ?_, fun hw hs => ?_⟩
    · rw [hstep]
      rcases ha with ha | ha <;> rw [State.settle_of_idle (ha.time hr) hidle]
    · have hsame : ({ r with waiting := u.waiting, stopped := u.stopped } : State) = r := by
        rw [show u.waiting = r.waiting from hw.symm, show u.stopped = r.stopped from hstop.trans hs.symm]
      have hrti (hcls : cls = .rti) : exec .rti (u.noteFetch .rti) = .next r := by
        rw [eq_rti_of_abortClass hcls] at hexec
        exact hexec
      obtain ⟨hintime, hlate⟩ := (hsame ▸ hl).step_aborted s.present_bus rfl rfl hstop hrti hstep
      refine ⟨hintime, fun ha => ?_⟩
      obtain ⟨t, ht, haborted⟩ := hlate ha
      have kept {c : AbortClass} (hc : cls = c) : Aborted (lateKept c u r) r t := hc ▸ haborted
      exact ⟨t, ht, kept, kept, kept, kept⟩
  case sequence =>
    intro s v src hrun hstarts r
    have hstop := hrun.not_stopped
    obtain ⟨hcfg, hranges, hbus, hw, hs⟩ := hstarts.kept
    obtain ⟨l, hl⟩ := Traced.interrupt v src v.pc
    have hrejects : v.rejects = s.present.rejects := by
      funext a
      rw [State.rejects, State.rejects, hcfg, hranges]
    exact hl.step_aborted (hbus.trans s.present_bus) hrejects hw (hs.trans hstop) nofun (step_of_starts hrun hstarts)

/-! ### Waiting and stopped (R435) -/

/-- Settles O57: both steps only take in the inputs of the boundary, and the waiting one ABORT-. -/
theorem waitingAndStopped : Obligations.WaitingAndStopped := by
  intro s u hres hin
  refine ⟨step_of_stopped hres hin, fun hstop hwait hnmi hirq => ?_⟩
  have hwake : u.wakes = false := by rw [State.wakes, hnmi, hirq]; rfl
  exact ⟨_, step_of_waiting hres hin hstop hwait hwake, rfl, (Bool.or_assoc _ _ _).symm⟩

end Sys2Proof.Machine

/-!
PROOFS of the reset and timing statements (70_reset_and_hazards.md): what RES- low and the reset sequence leave (O58),
and the bounds of the cycle counts (O60).
-/

namespace Sys2Proof.Machine

/-! ### Reset (R450, R451) -/

/-- While RES- is low the machine is held in reset (R450 steps 1 and 2). -/
theorem step_of_resLow {s : State} (h : s.present.resLow = true) : step s = .next s.present.holdReset := by
  simp [step, State.proceed, h]

/-- The first step with RES- high again is the reset sequence (R450 step 3). -/
theorem step_of_inReset {s : State} (hres : s.present.resLow = false) (hin : s.present.inReset = true) :
    step s = .next s.present.resetSequence := by
  simp [step, State.proceed, hres, hin]

/-- The flags a held reset leaves (R34): M, X and I set, D clear. -/
theorem State.getFlag_holdReset (s : State) :
    getFlag s.holdReset.p .m = true ∧ getFlag s.holdReset.p .x = true ∧ getFlag s.holdReset.p .d = false ∧
      getFlag s.holdReset.p .i = true := by
  have hp (f : Flag) := getFlag_resetP (Config.resetDraw s.draws).n (Config.resetDraw s.draws).v
    (Config.resetDraw s.draws).z (Config.resetDraw s.draws).carry f
  exact ⟨hp .m, hp .x, hp .d, hp .i⟩

/-- Settles O58: the held step by its fields, whatever the free values are; the reset sequence by its vector. -/
theorem resetInput : Obligations.ResetInput := by
  intro s u
  refine ⟨fun hres => ⟨_, step_of_resLow hres, ?_⟩, fun hres hin => ⟨_, step_of_inReset hres hin, ?_⟩⟩
  · obtain ⟨hm, hx, hd, hi⟩ := u.getFlag_holdReset
    exact ⟨rfl, rfl, rfl, hiByte_mkWord _ _, hiByte_mkWord _ _, hiByte_mkWord _ _, hm, hx, hd, hi,
      rfl, rfl, rfl, rfl, rfl, rfl, rfl⟩
  · exact ⟨u.resetSequence_pc, rfl⟩

/-! ### Cycle counts (R471 to R473) -/

/-- The instruction reads an operand whose index may take it across a page (R472 (d)). -/
def crossForm (i : Instr) : Bool :=
  match readForm i with
  | some (_, .mem m) => indexedAcrossPage m
  | _ => false

/-- The most cycles that R472 (a) to (e) add to an instruction in any state: each row where it can apply to it. -/
def mostAdded (i : Instr) : Nat :=
  (if (dataWidthFlag i).isSome then 1 else 0) + (if (modifyForm i).isSome then 2 else 0) +
    (if directForm i then 1 else 0) + (if crossForm i then 1 else 0) + (if (branchForm 0x00 i).isSome then 2 else 0)

/-- The most cycles that R472 (f) saves: one, in the instructions that push or pull PBR in Native mode only. -/
def mostSaved : Instr → Nat
  | .brk _ => 1
  | .cop _ => 1
  | .rti => 1
  | _ => 0

theorem State.dataCycles_le (s : State) (i : Instr) : s.dataCycles i ≤ if (dataWidthFlag i).isSome then 1 else 0 := by
  unfold State.dataCycles
  cases dataWidthFlag i with
  | none => exact Nat.le_refl 0
  | some f => cases h : getFlag s.p f <;> simp [h]

theorem State.modifyCycles_le (s : State) (i : Instr) :
    s.modifyCycles i ≤ if (modifyForm i).isSome then 2 else 0 := by
  unfold State.modifyCycles
  cases (modifyForm i).isSome with
  | false => exact Nat.le_refl 0
  | true => cases getFlag s.p .m <;> decide

theorem State.directCycles_le (s : State) (i : Instr) : s.directCycles i ≤ if directForm i then 1 else 0 := by
  unfold State.directCycles
  cases directForm i with
  | false => exact Nat.le_refl 0
  | true => cases loByte s.d != 0x00 <;> decide

theorem State.crossCycles_le (s : State) (i : Instr) : s.crossCycles i ≤ if crossForm i then 1 else 0 := by
  unfold State.crossCycles crossForm
  rcases readForm i with _ | ⟨op, _ | m⟩
  · exact Nat.le_refl 0
  · exact Nat.le_refl 0
  · by_cases hm : indexedAcrossPage m = true
    · simp only [hm, if_true]
      split <;> decide
    · simp [hm]

/-- Which instructions branch does not depend on P. -/
theorem branchForm_isSome (p q : Byte) (i : Instr) : (branchForm p i).isSome = (branchForm q i).isSome := by
  cases i <;> rfl

theorem State.branchCycles_le (s : State) (i : Instr) :
    s.branchCycles i ≤ if (branchForm 0x00 i).isSome then 2 else 0 := by
  rw [branchForm_isSome 0x00 s.p]
  unfold State.branchCycles
  rcases branchForm s.p i with _ | ⟨_ | _, disp⟩
  · exact Nat.le_refl 0
  · exact Nat.zero_le 2
  · show (if _ then 2 else 1) ≤ 2
    split <;> decide

theorem State.emulationSaving_le (s : State) (i : Instr) : s.emulationSaving i ≤ mostSaved i := by
  unfold State.emulationSaving
  split
  case h_1 | h_2 | h_3 => cases s.e <;> exact Nat.le_of_ble_eq_true rfl
  case h_4 => exact Nat.zero_le _

/-- The table of R471 leaves room for all that R472 adds to an instruction or saves in it: read off at the opcode of
each of the 256 instructions. -/
theorem baseCycles_bounds (i : Instr) :
    2 + mostSaved i ≤ baseCycles (opcodeOf i) ∧ baseCycles (opcodeOf i) + mostAdded i ≤ 9 := by
  cases i <;> simp only [opcodeOf, encode, List.headD_cons, BitVec.reduceToNat] <;>
    exact ⟨Nat.le_of_ble_eq_true rfl, Nat.le_of_ble_eq_true rfl⟩

/-- Settles O60: each row of R472 by its own bound, their sums by the table of R471. -/
theorem cycleBounds : Obligations.CycleBounds := by
  intro s i
  obtain ⟨hlow, hhigh⟩ := baseCycles_bounds i
  have hdata := s.dataCycles_le i
  have hmodify := s.modifyCycles_le i
  have hdirect := s.directCycles_le i
  have hcross := s.crossCycles_le i
  have hbranch := s.branchCycles_le i
  have hsaved := s.emulationSaving_le i
  unfold mostAdded at hhigh
  unfold State.cycles
  omega

end Sys2Proof.Machine
